-- ==== Sys2Proof/Word.lean ====
section
/-! DEFINITION. The words of the block: what the spec treats as bits (30_encoding.md R70, R71, R73, R75). -/

namespace Sys2Proof

/-- A command word, 32 bits, delivered whole (R75, R52). -/
abbrev Word := BitVec 32

/-- A SynthRegisterValue: `N` in bits [19:7], `A` in bits [6:0] (R70). Also the width of a value
returned to the host (R56). -/
abbrev RegValue := BitVec 20

/-- The 16 register bits that a write frame carries (R71). -/
abbrev Payload := BitVec 16

/-- A chip register address, 4 bits on the wire (R50, R71, R73). -/
abbrev RegAddr := BitVec 4

/-- A line identifier (R22, R76). -/
abbrev LineIdent := BitVec 8

/-- The 25 bits of a write frame read as one number, frame bit t at position t (R72). -/
abbrev WriteFrameWord := BitVec 25

/-- The 5 bits of a read header read as one number (R73). -/
abbrev ReadHeaderWord := BitVec 5

end Sys2Proof
end

