-- ==== Sys2Proof/Config.lean ====
section
/-! DEFINITION. What an implementation fixes (the parameters of 00_scope.md R8) and the values the spec
leaves open. The two-valued parameters are plain data that `State` carries, so that one step function
covers every setting (log 3); the open values are constants with no body (logs 4 and 11). -/

namespace Sys2Proof

/-- Where RECV_BIT samples DATA (R8, R108, decision D8). -/
inductive SamplePoint where
  | endOfHigh
  | afterFall
  deriving DecidableEq, Repr

/-- The named parameters of R8 that choose between behaviours; fixed for a whole run (D30). -/
structure Params where
  samplePoint : SamplePoint
  readParks : Bool
  hasReadc : Bool
  deriving DecidableEq, Repr

/-- The defaults of R8: `SAMPLE_POINT = END_OF_HIGH`, `READ_PARKS = false`, `HAS_READC = true`. -/
def Params.default : Params :=
  { samplePoint := .endOfHigh, readParks := false, hasReadc := true }

/-- FREE VALUE (log 4): the bit that the n-th DATA sample draws when no environment input lists it.
R103: "a free draw in {0, 1}"; no source fixes it. -/
opaque Config.freeSample : Nat → Bool

/-- OPEN (log 11): `T_DELAY`, the least duration of one delay, in some unit of time (R102, D19). -/
opaque Config.tDelay : Nat

/-- OPEN (log 11): `T_STAB`, the caller-owned stabilization wait; no rule of the block depends on it
(R242, D24). -/
opaque Config.tStab : Nat

end Sys2Proof
end

