-- ==== Sys2Proof/Syntax.lean ====
section
/-! DEFINITION. The instructions: one constructor per row of opcode_table.json, and the words by which
they reach the block. -/

namespace Sys2Proof

/-- The rows of the opcode table. The first five are the host's commands (R76 to R80); the last two are
the wire frames of the transceiver (R71 to R73), which have no command word (R85). A frequency is an
integer in whole MHz, as R81 assembles it. -/
inductive Instr where
  /-- INIT clk, sel, data (R76, R181) -/
  | init (clk sel data : LineIdent)
  /-- SETF freq (R77, R141) -/
  | setf (freq : Int)
  /-- READ addr (R78, R161) -/
  | read (addr : RegAddr)
  /-- ENC freq (R79, R121) -/
  | enc (freq : Int)
  /-- READC addr (R80, R166) -/
  | readc (addr : RegAddr)
  /-- FRAME_WRITE data: the write frame with address 1, flag 1, these data bits, padding 0 (R71, R72) -/
  | frameWrite (data : Payload)
  /-- FRAME_READ_HDR addr: the read header with flag 0, then 20 receive pulses (R73) -/
  | frameReadHdr (addr : RegAddr)
  deriving DecidableEq, Repr

/-- What can stand at the block's input: a command word of the host (R75), or a wire frame given to the
transceiver itself, which no host command can do (R85, log 7). -/
inductive Request where
  | command (w : Word)
  | writeFrame (f : WriteFrameWord)
  | readHeader (h : ReadHeaderWord)
  deriving DecidableEq, Repr

end Sys2Proof
end

