-- ==== Sys2Proof/WellFormed.lean ====
section
/-! DEFINITION. Which instructions have a word: the operand ranges of 30_encoding.md R81 and the presence
of READC (R80). The other operands are fields whose width is their type. -/

namespace Sys2Proof

/-- R81: a frequency operand lies in [-2^27, 2^27 - 1]. -/
def freqInRange (f : Int) : Bool := decide (-2 ^ 27 ≤ f) && decide (f ≤ 2 ^ 27 - 1)

/-- Well-formed on a block with the given `HAS_READC`: every operand fits its field (R81) and the row is
present (R80, R84). -/
def Instr.wellFormed (hasReadc : Bool) : Instr → Bool
  | .init _ _ _ => true
  | .setf f => freqInRange f
  | .read _ => true
  | .enc f => freqInRange f
  | .readc _ => hasReadc
  | .frameWrite _ => true
  | .frameReadHdr _ => true

end Sys2Proof
end

