-- ==== Sys2Proof/Decode.lean ====
section
/-! DEFINITION. The decoder of 30_encoding.md R83, total on every word and rejecting by name, the decoder
of the wire frames (R71, R73, R74), and the encoder written from the same formats (R72, R73, R76 to R80). -/

namespace Sys2Proof

/-- Why bits select no instruction. The first three are the cases of R84; the last is R74's. -/
inductive Reject where
  /-- opcode 0000 or 0110 to 1111 -/
  | unknownOpcode
  /-- a bit the format marks reserved is 1 -/
  | reservedBits
  /-- opcode 0101 on a block with `HAS_READC = false` -/
  | readcAbsent
  /-- a wire frame that the block never emits (R74) -/
  | frameNeverEmitted
  deriving DecidableEq, Repr

inductive Decoded where
  | instr (i : Instr)
  | reject (r : Reject)
  deriving DecidableEq, Repr

def Decoded.toOption : Decoded → Option Instr
  | .instr i => some i
  | .reject _ => none

/-! ### Fields of a command word (R75 to R81) -/

def opcodeField (w : Word) : BitVec 4 := w.extractLsb' 28 4
def initReservedField (w : Word) : BitVec 4 := w.extractLsb' 24 4
def clkField (w : Word) : LineIdent := w.extractLsb' 16 8
def selField (w : Word) : LineIdent := w.extractLsb' 8 8
def dataField (w : Word) : LineIdent := w.extractLsb' 0 8
def readReservedField (w : Word) : BitVec 24 := w.extractLsb' 4 24
def addrField (w : Word) : RegAddr := w.extractLsb' 0 4

/-- R81: `freq = sext(w[27:0])`. -/
def freqField (w : Word) : Int := (w.extractLsb' 0 28).toInt

/-- R83, line by line. -/
def decodeCommand (hasReadc : Bool) (w : Word) : Decoded :=
  if opcodeField w = 0b0001#4 then
    if initReservedField w = 0 then .instr (.init (clkField w) (selField w) (dataField w))
    else .reject .reservedBits
  else if opcodeField w = 0b0010#4 then .instr (.setf (freqField w))
  else if opcodeField w = 0b0011#4 then
    if readReservedField w = 0 then .instr (.read (addrField w)) else .reject .reservedBits
  else if opcodeField w = 0b0100#4 then .instr (.enc (freqField w))
  else if opcodeField w = 0b0101#4 then
    if hasReadc then
      if readReservedField w = 0 then .instr (.readc (addrField w)) else .reject .reservedBits
    else .reject .readcAbsent
  else .reject .unknownOpcode

/-- The write frames that the block emits: address 1, flag 1, padding 0 (R71, R74). -/
def decodeWriteFrame (f : WriteFrameWord) : Decoded :=
  if f.extractLsb' 0 4 = 1#4 ∧ f.extractLsb' 4 1 = 1#1 ∧ f.extractLsb' 21 4 = 0#4 then
    .instr (.frameWrite (f.extractLsb' 5 16))
  else .reject .frameNeverEmitted

/-- The read headers that the block emits: flag 0 (R73, R74). -/
def decodeReadHeader (h : ReadHeaderWord) : Decoded :=
  if h.extractLsb' 4 1 = 0#1 then .instr (.frameReadHdr (h.extractLsb' 0 4))
  else .reject .frameNeverEmitted

/-- Any request at all is one instruction or rejected by name. -/
def decode (hasReadc : Bool) : Request → Decoded
  | .command w => decodeCommand hasReadc w
  | .writeFrame f => decodeWriteFrame f
  | .readHeader h => decodeReadHeader h

/-! ### The opcode table's own numbering of bits -/

/-- The request whose bits the opcode table numbers `w` (log 9). The table's rows are of two kinds, and
no word is of both: a write frame's bits [31:28] are 0, which is no command's opcode (R82). -/
def requestOfTableWord (nbits w : Nat) : Request :=
  if nbits ≤ 8 ∧ w < 2 ^ 5 then .readHeader (BitVec.ofNat 5 w)
  else if w < 2 ^ 25 ∧ (decodeWriteFrame (BitVec.ofNat 25 w)).toOption.isSome then
    .writeFrame (BitVec.ofNat 25 w)
  else .command (BitVec.ofNat 32 w)

/-- The instruction read from a table word, on a block with the default `HAS_READC = true` (R8). -/
def decodeTableWord (nbits w : Nat) : Option Instr :=
  if w < 2 ^ 32 then (decode true (requestOfTableWord nbits w)).toOption else none

/-! ### Encoder -/

/-- R72: `F = {0b0000, reg[15:0], 0b1, addr[3:0]}` with address 1. -/
def writeFrameWord (data : Payload) : WriteFrameWord := 0b0000#4 ++ data ++ 0b1#1 ++ 0b0001#4

/-- R73: `H = {0b0, addr[3:0]}`. -/
def readHeaderWord (addr : RegAddr) : ReadHeaderWord := 0b0#1 ++ addr

/-- The word of an instruction, from the formats R76 to R80 and the frames R72, R73. -/
def encode : Instr → Request
  | .init clk sel data => .command (0b0001#4 ++ 0b0000#4 ++ clk ++ sel ++ data)
  | .setf freq => .command (0b0010#4 ++ BitVec.ofInt 28 freq)
  | .read addr => .command (0b0011#4 ++ 0#24 ++ addr)
  | .enc freq => .command (0b0100#4 ++ BitVec.ofInt 28 freq)
  | .readc addr => .command (0b0101#4 ++ 0#24 ++ addr)
  | .frameWrite data => .writeFrame (writeFrameWord data)
  | .frameReadHdr addr => .readHeader (readHeaderWord addr)

/-- A request's bits as the opcode table numbers them. -/
def Request.bits : Request → Nat
  | .command w => w.toNat
  | .writeFrame f => f.toNat
  | .readHeader h => h.toNat

/-- A request's width in the opcode table. -/
def Request.width : Request → Nat
  | .command _ => 32
  | .writeFrame _ => 25
  | .readHeader _ => 5

/-- Whether a request is a command word, the only kind that the host can issue (R85). -/
def Request.isCommand : Request → Bool
  | .command _ => true
  | .writeFrame _ => false
  | .readHeader _ => false

/-- The table's mask of each row. -/
def tableMask : Instr → Nat
  | .init _ _ _ => 0xFF000000
  | .setf _ => 0xF0000000
  | .read _ => 0xFFFFFFF0
  | .enc _ => 0xF0000000
  | .readc _ => 0xFFFFFFF0
  | .frameWrite _ => 0x1E0001F
  | .frameReadHdr _ => 0x10

/-- The table's match of each row. -/
def tableMatch : Instr → Nat
  | .init _ _ _ => 0x10000000
  | .setf _ => 0x20000000
  | .read _ => 0x30000000
  | .enc _ => 0x40000000
  | .readc _ => 0x50000000
  | .frameWrite _ => 0x0000011
  | .frameReadHdr _ => 0x00

end Sys2Proof
end

