-- ==== Sys2Proof/Machine/State.lean ====
section
/-! DEFINITION. The state of the block: exactly the elements of 10_state.md R20, and after them the model's
own fields (the parameters, the host's side of the interface and the oracle). -/

namespace Sys2Proof.Machine

/-- The three owned lines, by role (R22, R51). -/
inductive Line where
  | clk
  | sel
  | data
  deriving DecidableEq, Repr

/-- One thing for each line. -/
structure PerLine (α : Type) where
  clk : α
  sel : α
  data : α
  deriving DecidableEq, Repr

/-- A line level: 0, 1, or `U` when no LineWrite has driven the line since power-up (R13, R24). -/
inductive Level where
  | low
  | high
  | unknown
  deriving DecidableEq, Repr

/-- The direction of a line (R23). No rule sets `input`. -/
inductive Direction where
  | output
  | input
  deriving DecidableEq, Repr

/-- The transaction state of R26. -/
inductive Phase where
  | idle
  | enableAsserting
  | transmittingAddress
  | transmittingRWFlag
  | transmittingData
  | receivingData
  | transmittingPadding
  | enableDeasserting
  deriving DecidableEq, Repr

/-- An event of the trace (R12). -/
inductive Event where
  | set (line : Line) (b : Bool)
  | dly
  | smp (s : Bool)
  deriving DecidableEq, Repr

/-- The contents of the fault register (R29, R200). -/
inductive FaultCode where
  /-- code 0 -/
  | noFault
  /-- code 1: a transaction before INIT (R201) -/
  | notConstructed
  /-- code 2: INIT with two equal line identifiers (R202) -/
  | linesNotDistinct
  /-- code 3: INIT when `bound = 1` (R203) -/
  | alreadyConstructed
  /-- code 4: a command word that decodes to no command (R204) -/
  | illegalCommand
  deriving DecidableEq, Repr

structure State where
  /-- R21: construction has happened. -/
  bound : Bool
  /-- R22: the identifiers INIT bound; no value before INIT. -/
  lineId : PerLine (Option LineIdent)
  /-- R23: line directions; no value before INIT. -/
  lineDir : PerLine (Option Direction)
  /-- R24: the level the block last drove on each line. -/
  level : PerLine Level
  /-- R26: the transaction state. -/
  phase : Phase
  /-- R27: the index of the bit within the current field; no value in the other phases. -/
  j : Option Nat
  /-- R28: the read accumulator; no value between commands. -/
  acc : Option RegValue
  /-- R29: the sticky fault register. -/
  fault : FaultCode
  /-- R34: every event since power-up, oldest first. -/
  trace : List Event
  /-- MODEL'S OWN: the parameters of R8, fixed for a whole run (D30, log 3). -/
  cfg : Params
  /-- MODEL'S OWN: the requests to come, oldest first (D2, D20, log 2). -/
  port : List Request
  /-- MODEL'S OWN: the bits DATA will present to the samples to come, oldest first (D9, log 4). -/
  samples : List Bool
  /-- MODEL'S OWN: how many samples have been drawn, the argument of `Config.freeSample` (log 4). -/
  draws : Nat
  /-- MODEL'S OWN: the values handed to the host, oldest first (R11, D29, log 5). -/
  received : List RegValue
  deriving DecidableEq, Repr

/-- Reasons to stop the machine. None: every fault of R200 is taken as the spec describes its entry, a
next state with the fault register written (R205, log 6). -/
inductive Fault where
  deriving DecidableEq, Repr

/-- Reasons to give an input no meaning. -/
inductive Refusal where
  /-- raised by `exec` alone, for an instruction without a meaning; here by none. Safe. -/
  | notModelled (mnemonic : String)
  /-- raised by `perform` for wire-frame bits that the block never emits (R74: "what the chip would do
  with one is not in any source"). Safe: nothing follows from it. -/
  | frameNeverEmitted
  deriving DecidableEq, Repr

/-- The power-up state of R35; the parameters at the defaults of R8; nothing asked and nothing handed
out yet (logs 2, 4, 5). -/
def State.reset : State :=
  { bound := false
    lineId := { clk := none, sel := none, data := none }
    lineDir := { clk := none, sel := none, data := none }
    level := { clk := .unknown, sel := .unknown, data := .unknown }
    phase := .idle
    j := none
    acc := none
    fault := .noFault
    trace := []
    cfg := Params.default
    port := []
    samples := []
    draws := 0
    received := [] }

end Sys2Proof.Machine
end

