-- ==== Sys2Proof/Machine/Flags.lean ====
section
/-! DEFINITION. The block has no flags, condition codes or status bits (10_state.md R30); its one error
state is the fault register, whose codes 60_exceptions.md R200 numbers. -/

namespace Sys2Proof.Machine

/-- The number the fault register holds (R200). -/
def FaultCode.code : FaultCode → Nat
  | .noFault => 0
  | .notConstructed => 1
  | .linesNotDistinct => 2
  | .alreadyConstructed => 3
  | .illegalCommand => 4

end Sys2Proof.Machine
end

