-- ==== Sys2Proof/Machine/Ops.lean ====
section
/-! DEFINITION. The named operations over the state: the three of the Line Control Primitive
(40_line_primitives.md R100 to R103), the sequencer's position (10_state.md R26, R27), raising a fault
(60_exceptions.md R205) and handing a value to the host (00_scope.md R11). -/

namespace Sys2Proof.Machine

def PerLine.get {α : Type} (p : PerLine α) : Line → α
  | .clk => p.clk
  | .sel => p.sel
  | .data => p.data

def PerLine.set {α : Type} (p : PerLine α) (l : Line) (a : α) : PerLine α :=
  match l with
  | .clk => { p with clk := a }
  | .sel => { p with sel := a }
  | .data => { p with data := a }

/-- The same thing for every line. -/
def PerLine.all {α : Type} (a : α) : PerLine α := { clk := a, sel := a, data := a }

/-- Level 1 is high, level 0 is low (R13). -/
def Level.ofBit : Bool → Level
  | false => .low
  | true => .high

/-- Every primitive appends one event (R34, R100). -/
def State.emit (e : Event) (s : State) : State := { s with trace := s.trace ++ [e] }

/-- R101: `level[L] <- b; append SET(L, b)`, also when the level stays. -/
def lineWrite (l : Line) (b : Bool) (s : State) : State :=
  State.emit (.set l b) { s with level := s.level.set l (Level.ofBit b) }

/-- R102: `wait at least T_DELAY; append DLY`. -/
def delay (s : State) : State := s.emit .dly

/-- The bit the next sample draws: the environment's, or a free value where none is listed (R103, D9). -/
def State.nextSample (s : State) : Bool :=
  match s.samples with
  | b :: _ => b
  | [] => Config.freeSample s.draws

/-- R103: draw `s`, append `SMP(s)`, return `s`. -/
def lineSample (s : State) : Bool × State :=
  (s.nextSample,
    State.emit (.smp s.nextSample) { s with samples := s.samples.tail, draws := s.draws + 1 })

/-- The first index of a phase that counts bits; no value in the others (R27). -/
def Phase.firstIndex : Phase → Option Nat
  | .transmittingAddress => some 0
  | .transmittingRWFlag => some 0
  | .transmittingData => some 0
  | .receivingData => some 0
  | .transmittingPadding => some 0
  | .idle => none
  | .enableAsserting => none
  | .enableDeasserting => none

/-- `phase <- p`, with `j` at the start of the phase's field (R27). -/
def State.enter (p : Phase) (s : State) : State := { s with phase := p, j := p.firstIndex }

/-- `j <- k`: the sequencer is at bit k of its field (R27). -/
def State.atBit (k : Nat) (s : State) : State := { s with j := some k }

/-- `acc <- v` (R28). -/
def State.setAcc (v : RegValue) (s : State) : State := { s with acc := some v }

/-- `acc` holds no value between commands (R28). -/
def State.dropAcc (s : State) : State := { s with acc := none }

/-- `return v` (R11): the host receives v. -/
def State.handToHost (v : RegValue) (s : State) : State := { s with received := s.received ++ [v] }

/-- R205: `raise Fault(code)`. The fault register is written only while it holds 0 (R29); nothing else
changes. There is no return from a fault (R206). -/
def raiseFault (c : FaultCode) (s : State) : State :=
  if s.fault = .noFault then { s with fault := c } else s

/-- R205: once `fault != 0` a command has no effect at all. -/
def unlessFaulted (s : State) (k : Host.Outcome State Fault Refusal) :
    Host.Outcome State Fault Refusal :=
  if s.fault = .noFault then k else .next s

/-- R201: a transaction with `bound = 0` raises `NOT_CONSTRUCTED` before any event. -/
def ifConstructed (s : State) (k : Host.Outcome State Fault Refusal) :
    Host.Outcome State Fault Refusal :=
  if s.bound then k else .next (raiseFault .notConstructed s)

end Sys2Proof.Machine
end

