-- ==== Sys2Proof/Machine/Construct.lean ====
section
/-! DEFINITION. Construction: INIT (44_construction.md R180 to R182). -/

namespace Sys2Proof.Machine

/-- The binding that INIT writes: no line is driven and no event appended (R181, R182). -/
def bindLines (clk sel data : LineIdent) (s : State) : State :=
  { s with
    lineId := { clk := some clk, sel := some sel, data := some data }
    lineDir := PerLine.all (some .output)
    bound := true }

/-- R181: INIT, its checks in the order of R208. -/
def execInit (clk sel data : LineIdent) (s : State) : Host.Outcome State Fault Refusal :=
  unlessFaulted s
    (if s.bound then .next (raiseFault .alreadyConstructed s)
    else if clk = sel ∨ clk = data ∨ sel = data then .next (raiseFault .linesNotDistinct s)
    else .next (bindLines clk sel data s))

end Sys2Proof.Machine
end

