-- ==== Sys2Proof/Machine/Operands.lean ====
section
/-! DEFINITION. The operands of a transaction: what is sent in which field (30_encoding.md R71, R73) and
how the read accumulator takes a sample (43_read.md R162, R167). -/

namespace Sys2Proof.Machine

/-- The low w bits of v, least significant first, as they go on the wire (R52, R109). -/
def lowBits {n : Nat} (w : Nat) (v : BitVec n) : List Bool := (List.range w).map v.getLsbD

/-- The 25 bits of a write frame in transmission order (R71). -/
def writeFrameBits (data : Payload) : List Bool :=
  lowBits 4 (1#4) ++ [true] ++ lowBits 16 data ++ lowBits 4 (0#4)

/-- The 5 bits that a read frame sends, in transmission order (R73). -/
def readHeaderBits (addr : RegAddr) : List Bool := lowBits 4 addr ++ [false]

/-- The two accumulator updates of a read. -/
inductive ReadMode where
  /-- READ: the latest sample only (R162) -/
  | latest
  /-- READC: sample r to bit r (R167) -/
  | shifted
  deriving DecidableEq, Repr

/-- `zext_20(s)` for a bit. -/
def bitValue (b : Bool) : RegValue := (BitVec.ofBool b).setWidth 20

/-- The accumulator after receive iteration r has sampled b. -/
def accUpdate (m : ReadMode) (r : Nat) (b : Bool) (acc : RegValue) : RegValue :=
  match m with
  | .latest => bitValue b
  | .shifted => acc ||| (bitValue b <<< r)

end Sys2Proof.Machine
end

