-- ==== Sys2Proof/Machine/Primitives.lean ====
section
/-! DEFINITION. The transmit, bracket and receive primitives of 40_line_primitives.md, each its rule's
pseudocode, and the events each appends. -/

namespace Sys2Proof.Machine

/-- R104: SEND_BIT. -/
def sendBit (b : Bool) (s : State) : State :=
  delay (lineWrite .clk false (delay (lineWrite .clk true
    (delay (lineWrite .data b (delay (lineWrite .clk false s)))))))

/-- R105: ENABLE_BEGIN. -/
def enableBegin (s : State) : State :=
  delay (lineWrite .sel false (delay (lineWrite .sel true s)))

/-- R106: ENABLE_END. -/
def enableEnd (s : State) : State := delay (lineWrite .sel true s)

/-- R107: PARK. -/
def park (s : State) : State := lineWrite .data false (lineWrite .clk false (lineWrite .sel false s))

/-- R108: RECV_BIT, with the sample where `SAMPLE_POINT` says. -/
def recvBit (s : State) : Bool × State :=
  let high := delay (lineWrite .clk true (delay (lineWrite .clk false s)))
  match s.cfg.samplePoint with
  | .endOfHigh => ((lineSample high).1, delay (lineWrite .clk false (lineSample high).2))
  | .afterFall => lineSample (delay (lineWrite .clk false high))

/-- n bits of v from index k on, the sequencer's `j` at each (R27, R109). -/
def sendBitsFrom {m : Nat} (v : BitVec m) : Nat → Nat → State → State
  | _, 0, s => s
  | k, n + 1, s => sendBitsFrom v (k + 1) n (sendBit (v.getLsbD k) (s.atBit k))

/-- R109: SEND_FIELD(v, w). -/
def sendField {m : Nat} (v : BitVec m) (w : Nat) (s : State) : State := sendBitsFrom v 0 w s

/-- One receive iteration: `s_r <- RECV_BIT()`, then the accumulator's update (R161, R166). -/
def receiveAt (m : ReadMode) (r : Nat) (s : State) : State :=
  let out := recvBit (s.atBit r)
  out.2.setAcc (accUpdate m r out.1 (s.acc.getD 0))

/-- n receive iterations from index r on. -/
def receiveFrom (m : ReadMode) : Nat → Nat → State → State
  | _, 0, s => s
  | r, n + 1, s => receiveFrom m (r + 1) n (receiveAt m r s)

/-! ### What each appends, as the rules list it -/

/-- R104. -/
def sendBitEvents (b : Bool) : List Event :=
  [.set .clk false, .dly, .set .data b, .dly, .set .clk true, .dly, .set .clk false, .dly]

/-- R105. -/
def enableBeginEvents : List Event := [.set .sel true, .dly, .set .sel false, .dly]

/-- R106. -/
def enableEndEvents : List Event := [.set .sel true, .dly]

/-- R107. -/
def parkEvents : List Event := [.set .sel false, .set .clk false, .set .data false]

/-- R108. -/
def recvBitEvents (p : SamplePoint) (b : Bool) : List Event :=
  match p with
  | .endOfHigh =>
      [.set .clk false, .dly, .set .clk true, .dly, .smp b, .set .clk false, .dly]
  | .afterFall =>
      [.set .clk false, .dly, .set .clk true, .dly, .set .clk false, .dly, .smp b]

end Sys2Proof.Machine
end

