-- ==== Sys2Proof/Machine/Read.lean ====
section
/-! DEFINITION. The read transaction, READ and READC (43_read.md R161, R166), and the read header as the
transceiver's own request (30_encoding.md R73, logs 7 and 8). -/

namespace Sys2Proof.Machine

/-- The transaction of R161 up to `phase <- Idle`, with the accumulator update of the given mode. -/
def readTransaction (m : ReadMode) (addr : RegAddr) (s : State) : State :=
  let s := enableBegin (s.enter .enableAsserting)
  let s := sendField addr 4 (s.enter .transmittingAddress)
  let s := sendField (0#1) 1 (s.enter .transmittingRWFlag)
  let s := receiveFrom m 0 20 ((s.enter .receivingData).setAcc 0)
  let s := enableEnd (s.enter .enableDeasserting)
  let s := if s.cfg.readParks then park s else s
  s.enter .idle

/-- `return acc`; afterwards `acc` holds no value (R28, R161). -/
def returnAcc (s : State) : State := (s.handToHost (s.acc.getD 0)).dropAcc

/-- R161: READ. -/
def execRead (addr : RegAddr) (s : State) : Host.Outcome State Fault Refusal :=
  unlessFaulted s (ifConstructed s (.next (returnAcc (readTransaction .latest addr s))))

/-- R166: READC. On a block without it, its word is illegal (R84, R204), before any other check (R208). -/
def execReadc (addr : RegAddr) (s : State) : Host.Outcome State Fault Refusal :=
  unlessFaulted s
    (if s.cfg.hasReadc then
      ifConstructed s (.next (returnAcc (readTransaction .shifted addr s)))
    else .next (raiseFault .illegalCommand s))

/-- FRAME_READ_HDR: the read transaction on the wire (R73); nothing goes to the host (D29, log 8). -/
def execFrameReadHdr (addr : RegAddr) (s : State) : Host.Outcome State Fault Refusal :=
  unlessFaulted s (ifConstructed s (.next (readTransaction .latest addr s).dropAcc))

/-- The value that the i-th sample from state s on draws (R103). -/
def State.sampleAt (s : State) (i : Nat) : Bool :=
  s.samples.getD i (Config.freeSample (s.draws + i))

/-- The events of a read transaction from state s on (R161, R165). -/
def readEvents (addr : RegAddr) (s : State) : List Event :=
  enableBeginEvents ++ (readHeaderBits addr).flatMap sendBitEvents
    ++ (List.range 20).flatMap (fun r => recvBitEvents s.cfg.samplePoint (s.sampleAt r))
    ++ enableEndEvents ++ (if s.cfg.readParks then parkEvents else [])

/-- The line levels after a read transaction (R25, R163). -/
def levelsAfterRead (p : Params) : PerLine Level :=
  { clk := .low, sel := if p.readParks then .low else .high, data := .low }

/-- The accumulator after n receive iterations (R161, R166): 0, then one update for each sample. -/
def accAfter (m : ReadMode) (s : State) : Nat → RegValue
  | 0 => 0
  | n + 1 => accUpdate m n (s.sampleAt n) (accAfter m s n)

/-- `sum over r < n of s_r * 2^r` (R167). -/
def sampleSum (s : State) : Nat → RegValue
  | 0 => 0
  | n + 1 => sampleSum s n + BitVec.ofNat 20 ((s.sampleAt n).toNat * 2 ^ n)

end Sys2Proof.Machine
end

