-- ==== Sys2Proof/Machine/Encoder.lean ====
section
/-! DEFINITION. The Frequency Encoder (41_encoder.md R120 to R125) and ENC (R121). Division and remainder
are `Int.fdiv` and `Int.fmod`, which round toward negative infinity as R10 says. -/

namespace Sys2Proof.Machine

/-- `k = (f - 479) div 2` (R122). -/
def intermediate (f : Int) : Int := Int.fdiv (f - 479) 2

/-- `N = k div 32` (R122). -/
def divisorN (f : Int) : Int := Int.fdiv (intermediate f) 32

/-- `A = k mod 32` (R122). -/
def fractionA (f : Int) : Int := Int.fmod (intermediate f) 32

/-- `raw = N * 128 + A` (R122). -/
def rawValue (f : Int) : Int := divisorN f * 128 + fractionA f

/-- `encode(f) = raw mod 2^20` (R122, R124). -/
def encodeFreq (f : Int) : RegValue := BitVec.ofInt 20 (rawValue f)

/-- `encode(f)[15:0]`, all that the write path sends (R130). -/
def payload (f : Int) : Payload := (encodeFreq f).extractLsb' 0 16

/-- R121: ENC. -/
def execEnc (freq : Int) (s : State) : Host.Outcome State Fault Refusal :=
  unlessFaulted s (.next (s.handToHost (encodeFreq freq)))

end Sys2Proof.Machine
end

