-- ==== Sys2Proof/Machine/Write.lean ====
section
/-! DEFINITION. The write transaction and SETF (42_write.md R140, R141), and the write frame as the
transceiver's own request (30_encoding.md R71, log 7). -/

namespace Sys2Proof.Machine

/-- Steps 1 to 7 of R141 for the 16 register bits `reg`. -/
def writeTransaction (reg : Payload) (s : State) : State :=
  let s := enableBegin (s.enter .enableAsserting)
  let s := sendField (1#4) 4 (s.enter .transmittingAddress)
  let s := sendField (1#1) 1 (s.enter .transmittingRWFlag)
  let s := sendField reg 16 (s.enter .transmittingData)
  let s := sendField (0#4) 4 (s.enter .transmittingPadding)
  let s := park (enableEnd (s.enter .enableDeasserting))
  s.enter .idle

/-- R141: SETF. -/
def execSetf (freq : Int) (s : State) : Host.Outcome State Fault Refusal :=
  unlessFaulted s (ifConstructed s (.next (writeTransaction (payload freq) s)))

/-- FRAME_WRITE: the write transaction that sends this frame (R71, R140; log 7). -/
def execFrameWrite (data : Payload) (s : State) : Host.Outcome State Fault Refusal :=
  unlessFaulted s (ifConstructed s (.next (writeTransaction data s)))

/-- What a write transaction appends (R141): 4, 200, 2 and 3 events. -/
def writeEvents (data : Payload) : List Event :=
  enableBeginEvents ++ (writeFrameBits data).flatMap sendBitEvents ++ enableEndEvents ++ parkEvents

end Sys2Proof.Machine
end

