-- ==== Sys2Proof/Machine/Dispatch.lean ====
section
/-! DEFINITION. One arm per instruction. -/

namespace Sys2Proof.Machine

def exec (i : Instr) (s : State) : Host.Outcome State Fault Refusal :=
  match i with
  | .init clk sel data => Sys2Proof.Machine.execInit clk sel data s
  | .setf freq => Sys2Proof.Machine.execSetf freq s
  | .read addr => Sys2Proof.Machine.execRead addr s
  | .enc freq => Sys2Proof.Machine.execEnc freq s
  | .readc addr => Sys2Proof.Machine.execReadc addr s
  | .frameWrite data => Sys2Proof.Machine.execFrameWrite data s
  | .frameReadHdr addr => Sys2Proof.Machine.execFrameReadHdr addr s

end Sys2Proof.Machine
end

