-- ==== Sys2Proof/Machine/Port.lean ====
section
/-! DEFINITION. The host interface: accepting a request (00_scope.md R7, 20_memory.md R55), decoding it
(30_encoding.md R83) and running it. -/

namespace Sys2Proof.Machine

/-- The oldest request, and the state with it taken from the port; none while the host is silent. -/
def State.accept (s : State) : Option (Request × State) :=
  match s.port with
  | [] => none
  | r :: rest => some (r, { s with port := rest })

/-- R205: a faulted block does nothing with a request. Otherwise the request is decoded: an instruction
runs, an illegal command word raises `ILLEGAL_COMMAND` (R204), and frame bits that the block never emits
are refused (R74, log 12). -/
def perform (r : Request) (s : State) : Host.Outcome State Fault Refusal :=
  unlessFaulted s
    (match decode s.cfg.hasReadc r with
    | .instr i => exec i s
    | .reject .frameNeverEmitted => .refused .frameNeverEmitted
    | .reject _ => .next (raiseFault .illegalCommand s))

/-- The request that a table word stands for, put where the next step accepts it. -/
def State.placeTableWord (s : State) (nbits w : Nat) : State :=
  { s with port := requestOfTableWord nbits w :: s.port }

end Sys2Proof.Machine
end

