-- ==== Sys2Proof/Machine/Step.lean ====
section
/-! DEFINITION. One step: one request, run to completion (20_memory.md R55). -/

namespace Sys2Proof.Machine

/-- The next request is accepted and performed; with none the block waits (70_reset_and_hazards.md R232). -/
def step (s : State) : Host.Outcome State Fault Refusal :=
  match s.accept with
  | none => .next s
  | some (r, s') => perform r s'

/-- s with the table word as the next request (log 9). -/
def State.withFetchWord (s : State) (nbits w : Nat) : State := s.placeTableWord nbits w

end Sys2Proof.Machine
end

