-- ==== Sys2Proof/Machine/Assembler.lean ====
section
/-! DEFINITION. The textual syntax of 30_encoding.md R86, one command a line (log 15). -/

namespace Sys2Proof.Machine

inductive AsmError where
  | unknownMnemonic
  | operandCount
  | badNumber
  /-- R86: an operand outside its field's range is an assembly error. -/
  | outOfRange
  deriving DecidableEq, Repr

inductive Assembled where
  /-- nothing but blanks and a comment -/
  | blank
  | instr (i : Instr)
  | error (e : AsmError)
  deriving DecidableEq, Repr

def isBlank (c : Char) : Bool := c == ' ' || c == '\t'

def trimBlanks (cs : List Char) : List Char :=
  ((cs.dropWhile isBlank).reverse.dropWhile isBlank).reverse

/-- The pieces between commas. -/
def splitCommas : List Char → List (List Char)
  | [] => [[]]
  | c :: cs =>
    if c = ',' then [] :: splitCommas cs
    else
      match splitCommas cs with
      | [] => [[c]]
      | p :: ps => (c :: p) :: ps

def decimalDigit (c : Char) : Option Nat :=
  if 48 ≤ c.toNat ∧ c.toNat ≤ 57 then some (c.toNat - 48) else none

def hexDigit (c : Char) : Option Nat :=
  if 48 ≤ c.toNat ∧ c.toNat ≤ 57 then some (c.toNat - 48)
  else if 65 ≤ c.toNat ∧ c.toNat ≤ 70 then some (c.toNat - 55)
  else if 97 ≤ c.toNat ∧ c.toNat ≤ 102 then some (c.toNat - 87)
  else none

/-- The number that digits of the given base continue from `n`. -/
def readDigits (base : Nat) (digit : Char → Option Nat) : Nat → List Char → Option Nat
  | n, [] => some n
  | n, c :: cs =>
    match digit c with
    | some d => readDigits base digit (n * base + d) cs
    | none => none

/-- R86: a decimal or `0x` hexadecimal integer, at least one digit. -/
def readNat (cs : List Char) : Option Nat :=
  match cs with
  | [] => none
  | '0' :: 'x' :: ds => if ds = [] then none else readDigits 16 hexDigit 0 ds
  | c :: ds => readDigits 10 decimalDigit 0 (c :: ds)

/-- R86: `freq` may be negative. -/
def readInt (cs : List Char) : Option Int :=
  match cs with
  | '-' :: ds => (readNat ds).map fun n => -(n : Int)
  | ds => (readNat ds).map fun n => (n : Int)

def asmFreq (mk : Int → Instr) (ops : List (List Char)) : Assembled :=
  match ops with
  | [f] =>
    match readInt f with
    | some n => if freqInRange n then .instr (mk n) else .error .outOfRange
    | none => .error .badNumber
  | _ => .error .operandCount

def asmAddr (mk : RegAddr → Instr) (ops : List (List Char)) : Assembled :=
  match ops with
  | [a] =>
    match readNat a with
    | some n => if n < 16 then .instr (mk (BitVec.ofNat 4 n)) else .error .outOfRange
    | none => .error .badNumber
  | _ => .error .operandCount

def asmInit (ops : List (List Char)) : Assembled :=
  match ops with
  | [c, e, d] =>
    match readNat c, readNat e, readNat d with
    | some clk, some sel, some data =>
      if clk < 256 ∧ sel < 256 ∧ data < 256 then
        .instr (.init (BitVec.ofNat 8 clk) (BitVec.ofNat 8 sel) (BitVec.ofNat 8 data))
      else .error .outOfRange
    | _, _, _ => .error .badNumber
  | _ => .error .operandCount

/-- One line of R86's syntax. The wire frames have none (R85). -/
def assembleLine (line : List Char) : Assembled :=
  let code := trimBlanks (line.takeWhile (· != ';'))
  let name := code.takeWhile (fun c => !isBlank c)
  let ops := (splitCommas (code.dropWhile (fun c => !isBlank c))).map trimBlanks
  if code = [] then .blank
  else if name = ['I', 'N', 'I', 'T'] then asmInit ops
  else if name = ['S', 'E', 'T', 'F'] then asmFreq .setf ops
  else if name = ['R', 'E', 'A', 'D'] then asmAddr .read ops
  else if name = ['R', 'E', 'A', 'D', 'C'] then asmAddr .readc ops
  else if name = ['E', 'N', 'C'] then asmFreq .enc ops
  else .error .unknownMnemonic

/-- R86: the assembler encodes each line by R76 to R80. -/
def assembleRequest (line : List Char) : Option Request :=
  match assembleLine line with
  | .instr i => some (encode i)
  | .blank => none
  | .error _ => none

end Sys2Proof.Machine
end

