-- ==== Sys2Proof/Machine/Observer.lean ====
section
/-! DEFINITION. Reading a trace from outside (00_scope.md R12, 60_exceptions.md R215): the levels that its
events leave, the bits a wire observer records (92_eei_decisions.md D26), the counts of R250, and the time
it takes (70_reset_and_hazards.md R244, R245). -/

namespace Sys2Proof.Machine

/-- The levels after one event (R24: only a SET changes one). -/
def Event.applyTo (e : Event) (lv : PerLine Level) : PerLine Level :=
  match e with
  | .set l b => lv.set l (Level.ofBit b)
  | .dly => lv
  | .smp _ => lv

/-- The levels after a piece of trace that starts at the levels `lv`. -/
def levelsAfter (lv : PerLine Level) : List Event → PerLine Level
  | [] => lv
  | e :: es => levelsAfter (e.applyTo lv) es

/-- D26: what the reference observer records, DATA at each `SET(CLK,1)` while SEL = 0. -/
def risingBits (lv : PerLine Level) : List Event → List Level
  | [] => []
  | e :: es =>
    if e = .set .clk true ∧ lv.sel = .low then lv.data :: risingBits (e.applyTo lv) es
    else risingBits (e.applyTo lv) es

/-- An observer on the other edge (R110): DATA at each fall of CLK while SEL = 0. -/
def fallingBits (lv : PerLine Level) : List Event → List Level
  | [] => []
  | e :: es =>
    if e = .set .clk false ∧ lv.clk = .high ∧ lv.sel = .low then
      lv.data :: fallingBits (e.applyTo lv) es
    else fallingBits (e.applyTo lv) es

/-- The sampled bits of a piece of trace, in order (R103). -/
def sampledBits : List Event → List Bool
  | [] => []
  | .smp b :: es => b :: sampledBits es
  | .set _ _ :: es => sampledBits es
  | .dly :: es => sampledBits es

def Event.isSet : Event → Bool
  | .set _ _ => true
  | .dly => false
  | .smp _ => false

def Event.isDly : Event → Bool
  | .set _ _ => false
  | .dly => true
  | .smp _ => false

def Event.isSmp : Event → Bool
  | .set _ _ => false
  | .dly => false
  | .smp _ => true

/-- The least duration of a piece of trace: `T_DELAY` for each DLY (R250). -/
def leastDuration (es : List Event) : Nat := es.countP Event.isDly * Config.tDelay

/-- The duration of the event at place k of the trace, in a run that stretches that event by `stretch k`:
at least `T_DELAY` for a DLY, without an upper bound (R244); nothing is fixed for the others (R245). -/
def eventDuration (stretch : Nat → Nat) (k : Nat) (e : Event) : Nat :=
  (if e.isDly then Config.tDelay else 0) + stretch k

/-- The duration of a piece of trace whose first event is at place k. -/
def duration (stretch : Nat → Nat) (k : Nat) : List Event → Nat
  | [] => 0
  | e :: es => eventDuration stretch k e + duration stretch (k + 1) es

end Sys2Proof.Machine
end

