-- ==== Sys2Proof/Machine/Sequencer.lean ====
section
/-! DEFINITION. The sequencer bit by bit (10_state.md R26, R27; 44_construction.md R184): one tick runs the
primitive at the position (`phase`, `j`) and moves to the next position. A command's meaning is the whole
run of its ticks; that the two agree is a statement of the package. -/

namespace Sys2Proof.Machine

/-- What the sequencer is running. -/
inductive Transaction where
  | write (reg : Payload)
  | read (m : ReadMode) (addr : RegAddr)
  deriving DecidableEq, Repr

/-- How many bits a phase counts (R27): its indices run from 0 to one less. -/
def Phase.fieldLength : Phase → Nat
  | .transmittingAddress => 4
  | .transmittingRWFlag => 1
  | .transmittingData => 16
  | .receivingData => 20
  | .transmittingPadding => 4
  | .idle => 0
  | .enableAsserting => 0
  | .enableDeasserting => 0

/-- The phase sequence of R184. -/
def Transaction.nextPhase (t : Transaction) (p : Phase) : Phase :=
  match p with
  | .idle => .idle
  | .enableAsserting => .transmittingAddress
  | .transmittingAddress => .transmittingRWFlag
  | .transmittingRWFlag =>
    match t with
    | .write _ => .transmittingData
    | .read _ _ => .receivingData
  | .transmittingData => .transmittingPadding
  | .receivingData => .enableDeasserting
  | .transmittingPadding => .enableDeasserting
  | .enableDeasserting => .idle

/-- The address of the transaction: always 1 for a write (R71, R147). -/
def Transaction.addr : Transaction → RegAddr
  | .write _ => 1
  | .read _ a => a

/-- The read/write flag: 1 for a write, 0 for a read (R74). -/
def Transaction.flag : Transaction → Bool
  | .write _ => true
  | .read _ _ => false

/-- Enter a phase; `acc` is set to 0 on entering `ReceivingData` (R28). -/
def enterPhase (p : Phase) (s : State) : State :=
  if p = .receivingData then (s.enter p).setAcc 0 else s.enter p

/-- R27: `j` increases by 1 after each bit; past the last index the phase advances. -/
def advance (t : Transaction) (s : State) : State :=
  if s.j.getD 0 + 1 < s.phase.fieldLength then s.atBit (s.j.getD 0 + 1)
  else enterPhase (t.nextPhase s.phase) s

/-- The closing phase (R184): ENABLE_END, then PARK after a write, and after a read only with
`READ_PARKS = true`. -/
def closeTransaction (t : Transaction) (s : State) : State :=
  match t with
  | .write _ => park (enableEnd s)
  | .read _ _ => if s.cfg.readParks then park (enableEnd s) else enableEnd s

/-- One position of the sequencer. -/
def tick (t : Transaction) (s : State) : State :=
  match s.phase with
  | .idle => s
  | .enableAsserting => advance t (enableBegin s)
  | .transmittingAddress => advance t (sendBit (t.addr.getLsbD (s.j.getD 0)) s)
  | .transmittingRWFlag => advance t (sendBit t.flag s)
  | .transmittingData =>
    match t with
    | .write reg => advance t (sendBit (reg.getLsbD (s.j.getD 0)) s)
    | .read _ _ => s
  | .receivingData =>
    match t with
    | .write _ => s
    | .read m _ => advance t (receiveAt m (s.j.getD 0) s)
  | .transmittingPadding => advance t (sendBit false s)
  | .enableDeasserting => advance t (closeTransaction t s)

/-- n ticks. -/
def runTicks (t : Transaction) : Nat → State → State
  | 0, s => s
  | n + 1, s => runTicks t n (tick t s)

/-- A transaction starts in `EnableAsserting` (R141, R161). -/
def startTransaction (s : State) : State := s.enter .enableAsserting

end Sys2Proof.Machine
end

