-- ==== Sys2Proof/Safety.lean ====
section
/-! DEFINITION. What claims are stated in: a run without fault (92_eei_decisions.md D28), the host's duty
(30_encoding.md R85, 70_reset_and_hazards.md R233), and the invariants of the block between commands. -/

namespace Sys2Proof.Machine

/-- D28: a finished run ends with `fault = 0`. -/
abbrev State.Unfaulted (s : State) : Prop := s.fault = .noFault

/-- Only command words stand at the port: the host cannot issue a wire frame (R85, R147). -/
abbrev State.HostOnly (s : State) : Prop := s.port.all Request.isCommand = true

/-- R26, R27, R28: between commands the sequencer is idle and holds no index and no accumulator. -/
abbrev State.AtRest (s : State) : Prop := s.phase = .idle ∧ s.j = none ∧ s.acc = none

/-- R21 to R23: unbound, there is no binding and no direction; bound, there are three distinct
identifiers and every line is an output. -/
abbrev State.BindingConsistent (s : State) : Prop :=
  (s.bound = false → s.lineId = PerLine.all none ∧ s.lineDir = PerLine.all none)
  ∧ (s.bound = true →
      s.lineDir = PerLine.all (some .output)
      ∧ s.lineId.clk.isSome = true ∧ s.lineId.sel.isSome = true ∧ s.lineId.data.isSome = true
      ∧ s.lineId.clk ≠ s.lineId.sel ∧ s.lineId.clk ≠ s.lineId.data
      ∧ s.lineId.sel ≠ s.lineId.data)

/-- R24: each level is the one that the trace last drove, `U` where it drove none. -/
abbrev State.LevelsTraced (s : State) : Prop :=
  s.level = levelsAfter (PerLine.all .unknown) s.trace

/-- R25, R148, R182: before the first transaction every line is `U`; after it CLK and DATA are low, and
SEL is low, or high when reads do not park. -/
abbrev State.LinesAtRest (s : State) : Prop :=
  (s.trace = [] → s.level = PerLine.all .unknown)
  ∧ (s.trace ≠ [] →
      s.level.clk = .low ∧ s.level.data = .low
      ∧ (s.level.sel = .low ∨ (s.level.sel = .high ∧ s.cfg.readParks = false)))

/-- R201 to R205: events come only from a bound block, and the recorded fault fits the binding. -/
abbrev State.FaultConsistent (s : State) : Prop :=
  (s.bound = false → s.trace = [])
  ∧ (s.fault = .notConstructed → s.bound = false)
  ∧ (s.fault = .linesNotDistinct → s.bound = false)
  ∧ (s.fault = .alreadyConstructed → s.bound = true)

/-- The invariant of the block between commands. -/
structure State.Inv (s : State) : Prop where
  atRest : s.AtRest
  binding : s.BindingConsistent
  levels : s.LevelsTraced
  lines : s.LinesAtRest
  fault : s.FaultConsistent

end Sys2Proof.Machine
end

