-- ==== Sys2Proof/Certificates/Slice0/Obligations.lean ====
section
/-! DEFINITION. The statements for the provers. The fields cfg, port, samples, draws and received of State
are the model's own (logs 2 to 5): where a statement names one (a step takes its request from the port, a
returned value is appended to received, a read takes its samples), that clause is the model's form of the
rule, and no rule of the spec names the field. -/

open Sys2Proof Sys2Proof.Machine

/-! ### Words, read as numbers (what the statements compare the decoder with) -/

/-- Bits [hi:lo] of a command word as an unsigned number (00_scope.md R9). -/
def Sys2Proof.Machine.wordBits (w : Word) (hi lo : Nat) : Nat := w.toNat / 2 ^ lo % 2 ^ (hi + 1 - lo)

/-- Bits [27:0] as a two's-complement number (R81). -/
def Sys2Proof.Machine.wordFreq (w : Word) : Int :=
  if wordBits w 27 0 < 2 ^ 27 then (wordBits w 27 0 : Int) else (wordBits w 27 0 : Int) - 2 ^ 28

/-- The illegal words as R84 lists them. -/
def Sys2Proof.Machine.IllegalWord (hasReadc : Bool) (w : Word) : Prop :=
  wordBits w 31 28 = 0 ∨ 6 ≤ wordBits w 31 28
  ∨ (wordBits w 31 28 = 1 ∧ wordBits w 27 24 ≠ 0)
  ∨ ((wordBits w 31 28 = 3 ∨ wordBits w 31 28 = 5) ∧ wordBits w 27 4 ≠ 0)
  ∨ (wordBits w 31 28 = 5 ∧ hasReadc = false)

/-- `encode(f)` before the reduction, from R122 with the Euclidean `/` and `%` of Int (which are floor
division for the positive divisors 2 and 32). -/
def Sys2Proof.Machine.specRaw (f : Int) : Int := (f - 479) / 2 / 32 * 128 + (f - 479) / 2 % 32

/-- The events of a write frame with the register bits `reg`, step by step as R141 lists them. -/
def Sys2Proof.Machine.specWriteTrace (reg : Nat → Bool) : List Event :=
  [.set .sel true, .dly, .set .sel false, .dly]
    ++ sendBitEvents true ++ sendBitEvents false ++ sendBitEvents false ++ sendBitEvents false
    ++ sendBitEvents true
    ++ (List.range 16).flatMap (fun i => sendBitEvents (reg i))
    ++ sendBitEvents false ++ sendBitEvents false ++ sendBitEvents false ++ sendBitEvents false
    ++ [.set .sel true, .dly]
    ++ [.set .sel false, .set .clk false, .set .data false]

/-- The events of a read from state s on, step by step as R161 lists them. -/
def Sys2Proof.Machine.specReadTrace (addr : RegAddr) (s : State) : List Event :=
  [.set .sel true, .dly, .set .sel false, .dly]
    ++ sendBitEvents (addr.getLsbD 0) ++ sendBitEvents (addr.getLsbD 1)
    ++ sendBitEvents (addr.getLsbD 2) ++ sendBitEvents (addr.getLsbD 3)
    ++ sendBitEvents false
    ++ (List.range 20).flatMap (fun r => recvBitEvents s.cfg.samplePoint (s.sampleAt r))
    ++ [.set .sel true, .dly]
    ++ (if s.cfg.readParks then [.set .sel false, .set .clk false, .set .data false] else [])

/-- The frame bits of R71 by their index t. -/
def Sys2Proof.Machine.specFrameBit (reg : Nat → Bool) (t : Nat) : Bool :=
  if t < 4 then (1#4).getLsbD t else if t = 4 then true else if t < 21 then reg (t - 5) else false

/-- The fault that a command word raises on an unfaulted block, by the priority of R208. -/
def Sys2Proof.Machine.specFault (s : State) (w : Word) : FaultCode :=
  if wordBits w 31 28 = 1 ∧ wordBits w 27 24 = 0 then
    if s.bound then .alreadyConstructed
    else if wordBits w 23 16 = wordBits w 15 8 ∨ wordBits w 23 16 = wordBits w 7 0
        ∨ wordBits w 15 8 = wordBits w 7 0 then .linesNotDistinct
    else .noFault
  else if wordBits w 31 28 = 2
      ∨ (wordBits w 31 28 = 3 ∧ wordBits w 27 4 = 0)
      ∨ (wordBits w 31 28 = 5 ∧ wordBits w 27 4 = 0 ∧ s.cfg.hasReadc = true) then
    if s.bound then .noFault else .notConstructed
  else if wordBits w 31 28 = 4 then .noFault
  else .illegalCommand

/-- With the command word w at the port a step runs i, in whatever state. -/
def Sys2Proof.Machine.RunsAs (w : Word) (i : Instr) : Prop :=
  ∀ (s : State) (rest : List Request), s.port = .command w :: rest →
    step s = exec i { s with port := rest }

/-- With the command word w at the port a step raises `ILLEGAL_COMMAND` and does nothing else. -/
def Sys2Proof.Machine.RaisesIllegal (w : Word) : Prop :=
  ∀ (s : State) (rest : List Request), s.fault = .noFault → s.port = .command w :: rest →
    step s = .next { s with port := rest, fault := .illegalCommand }

/-- From state s, i completes, appends events that leave its end levels, and after n of them SEL is still
`U` exactly while n < 1, CLK while n < 5 and DATA while n < 7; at the end every line has a level. -/
def Sys2Proof.Machine.FirstDrives (i : Instr) (s : State) : Prop :=
  ∃ t es, exec i s = .next t ∧ t.trace = s.trace ++ es ∧ t.level = levelsAfter s.level es
    ∧ (∀ n : Nat, (levelsAfter s.level (es.take n)).sel = .unknown ↔ n < 1)
    ∧ (∀ n : Nat, (levelsAfter s.level (es.take n)).clk = .unknown ↔ n < 5)
    ∧ (∀ n : Nat, (levelsAfter s.level (es.take n)).data = .unknown ↔ n < 7)
    ∧ (∀ l : Line, t.level.get l ≠ .unknown)

/-- From state s, i completes and appends so many SET, DLY and SMP events, and no others. -/
def Sys2Proof.Machine.AppendsCounts (i : Instr) (s : State) (sets dlys smps : Nat) : Prop :=
  ∃ t es, exec i s = .next t ∧ t.trace = s.trace ++ es ∧ es.length = sets + dlys + smps
    ∧ es.countP Event.isSet = sets ∧ es.countP Event.isDly = dlys ∧ es.countP Event.isSmp = smps

/-! ### Operand texts, as R86 writes them -/

/-- A number in decimal or, with `0x`, in hexadecimal; the digits are Lean's own. -/
def Sys2Proof.Machine.numText (hex : Bool) (n : Nat) : List Char :=
  if hex then '0' :: 'x' :: Nat.toDigits 16 n else Nat.toDigits 10 n

/-- A frequency, which may be negative. -/
def Sys2Proof.Machine.freqText (hex : Bool) (f : Int) : List Char :=
  if f < 0 then '-' :: numText hex f.natAbs else numText hex f.natAbs

/-- What may follow a command on its line: nothing, or a comment. -/
def Sys2Proof.Machine.commentText (c : Option (List Char)) : List Char :=
  match c with
  | none => []
  | some cs => ' ' :: ';' :: cs

/-- A piece of text without blank, comma or comment mark. -/
def Sys2Proof.Machine.PlainText (cs : List Char) : Prop :=
  ∀ c ∈ cs, c ≠ ' ' ∧ c ≠ '\t' ∧ c ≠ ',' ∧ c ≠ ';'

/-- What a command with one address operand of the given text must assemble to. -/
def Sys2Proof.Machine.specAddr (mk : RegAddr → Instr) (n : Option Nat) : Assembled :=
  match n with
  | some n => if n < 16 then .instr (mk (BitVec.ofNat 4 n)) else .error .outOfRange
  | none => .error .badNumber

/-- What a command with one frequency operand of the given text must assemble to. -/
def Sys2Proof.Machine.specFreq (mk : Int → Instr) (f : Option Int) : Assembled :=
  match f with
  | some f => if -2 ^ 27 ≤ f ∧ f < 2 ^ 27 then .instr (mk f) else .error .outOfRange
  | none => .error .badNumber

/-- What INIT with three operands of the given texts must assemble to. -/
def Sys2Proof.Machine.specInit (c e d : Option Nat) : Assembled :=
  match c, e, d with
  | some c, some e, some d =>
    if c < 256 ∧ e < 256 ∧ d < 256 then
      .instr (.init (BitVec.ofNat 8 c) (BitVec.ofNat 8 e) (BitVec.ofNat 8 d))
    else .error .outOfRange
  | _, _, _ => .error .badNumber

/-! ### Encoding -/

/-- Decode and encode agree: every well-formed instruction is read back from its own word, every operand
at every value its field admits (30_encoding.md sections 2 and 3). -/
def Obligations.DecodeOfEncodeIsTheInstruction : Prop :=
  ∀ (hasReadc : Bool) (i : Instr), i.wellFormed hasReadc = true →
    decode hasReadc (encode i) = .instr i

/-- The other direction: whatever decodes to an instruction is that instruction's own word, so no two
words mean the same and no word is read with a bit dropped (R75, R83). -/
def Obligations.EncodeOfDecodeIsTheWord : Prop :=
  ∀ (hasReadc : Bool) (r : Request) (i : Instr), decode hasReadc r = .instr i →
    encode i = r ∧ i.wellFormed hasReadc = true

/-- R81 on the formats R76 to R80: the operands of every legal word, computed as numbers. -/
def Obligations.LegalWordsDecodeToTheirOperands : Prop :=
  ∀ (hasReadc : Bool) (w : Word),
    (wordBits w 31 28 = 1 → wordBits w 27 24 = 0 →
      ∃ c e d : LineIdent, decode hasReadc (.command w) = .instr (.init c e d)
        ∧ c.toNat = wordBits w 23 16 ∧ e.toNat = wordBits w 15 8 ∧ d.toNat = wordBits w 7 0)
    ∧ (wordBits w 31 28 = 2 → decode hasReadc (.command w) = .instr (.setf (wordFreq w)))
    ∧ (wordBits w 31 28 = 3 → wordBits w 27 4 = 0 →
      ∃ a : RegAddr, decode hasReadc (.command w) = .instr (.read a) ∧ a.toNat = wordBits w 3 0)
    ∧ (wordBits w 31 28 = 4 → decode hasReadc (.command w) = .instr (.enc (wordFreq w)))
    ∧ (wordBits w 31 28 = 5 → wordBits w 27 4 = 0 → hasReadc = true →
      ∃ a : RegAddr, decode hasReadc (.command w) = .instr (.readc a) ∧ a.toNat = wordBits w 3 0)

/-- R84: the words that decode to no command are exactly those it lists, and they raise
`ILLEGAL_COMMAND`. -/
def Obligations.IllegalWordsAreExactlyThoseListed : Prop :=
  (∀ (hasReadc : Bool) (w : Word),
    (∃ r, decode hasReadc (.command w) = .reject r) ↔ IllegalWord hasReadc w)
  ∧ (∀ (s : State) (w : Word) (r : Reject) (rest : List Request), s.fault = .noFault →
      s.port = .command w :: rest → decode s.cfg.hasReadc (.command w) = .reject r →
      step s = .next { s with port := rest, fault := .illegalCommand })

/-- Words written out from the formats decode to what they stand for (95_test_vectors.md section 3). -/
def Obligations.WrittenOutWordsDecode : Prop :=
  decode true (.command 0x10020304#32) = .instr (.init 2 3 4)
  ∧ decode true (.command 0x2000160D#32) = .instr (.setf 5645)
  ∧ decode true (.command 0x2FFFFFFF#32) = .instr (.setf (-1))
  ∧ decode true (.command 0x3000000F#32) = .instr (.read 15)
  ∧ decode true (.command 0x40001739#32) = .instr (.enc 5945)
  ∧ decode true (.command 0x50000001#32) = .instr (.readc 1)
  ∧ decode false (.command 0x50000001#32) = .reject .readcAbsent
  ∧ decode true (.writeFrame 0x502F1#25) = .instr (.frameWrite 0x2817)
  ∧ decode true (.readHeader 0x0F#5) = .instr (.frameReadHdr 15)

/-! ### The step -/

/-- A step runs the instruction that the oldest request decodes to, with that request taken from the port. -/
def Obligations.StepRunsTheDecodedInstruction : Prop :=
  ∀ (s : State) (r : Request) (rest : List Request) (i : Instr), s.port = r :: rest →
    decode s.cfg.hasReadc r = .instr i → step s = exec i { s with port := rest }

/-- With no request the block waits (70_reset_and_hazards.md section 1; the port is the model's, log 2). -/
def Obligations.StepWaitsWithoutARequest : Prop :=
  ∀ s : State, s.port = [] → step s = .next s

/-- The one stop: an unfaulted block refuses wire-frame bits that it never emits (30_encoding.md section 2;
the model's choice, log 12). -/
def Obligations.StepRefusesFramesNeverEmitted : Prop :=
  ∀ (s : State) (rest : List Request), s.fault = .noFault →
    (∀ f : WriteFrameWord, s.port = .writeFrame f :: rest →
      (∀ d : Payload, f ≠ writeFrameWord d) → step s = .refused .frameNeverEmitted)
    ∧ (∀ h : ReadHeaderWord, s.port = .readHeader h :: rest →
      h.getLsbD 4 = true → step s = .refused .frameNeverEmitted)

/-- A step with a command at the port always goes on: no command stops the machine (R209, R205). -/
def Obligations.CommandsNeverStopTheMachine : Prop :=
  ∀ (s : State) (w : Word) (rest : List Request), s.port = .command w :: rest →
    ∃ t, step s = .next t ∧ t.port = rest

/-! ### Faults (60_exceptions.md) -/

/-- R204 with R84: an illegal word sets the fault register to 4 and does nothing else. -/
def Obligations.IllegalWordRaisesIllegalCommand : Prop :=
  ∀ (s : State) (w : Word) (rest : List Request), s.fault = .noFault → s.port = .command w :: rest →
    IllegalWord s.cfg.hasReadc w →
    step s = .next { s with port := rest, fault := .illegalCommand }

/-- R205: a fault is precise, and after it no command has any effect. -/
def Obligations.FaultsArePreciseAndFinal : Prop :=
  (∀ (c : FaultCode) (s : State), s.fault = .noFault → raiseFault c s = { s with fault := c })
  ∧ (∀ (i : Instr) (s t : State), s.fault = .noFault → exec i s = .next t → t.fault ≠ .noFault →
      t = { s with fault := t.fault })
  ∧ (∀ s t : State, s.fault = .noFault → step s = .next t → t.fault ≠ .noFault →
      t = { s with port := s.port.tail, fault := t.fault })
  ∧ (∀ (i : Instr) (s : State), s.fault ≠ .noFault → exec i s = .next s)
  ∧ (∀ s : State, s.fault ≠ .noFault → step s = .next { s with port := s.port.tail })

/-- R29: the fault register starts at 0, is written only by raising a fault, and is sticky; its values are
the numbers that the table of R200 gives the five names. -/
def Obligations.FaultRegisterIsSticky : Prop :=
  State.reset.fault.code = 0
  ∧ (FaultCode.noFault.code = 0 ∧ FaultCode.notConstructed.code = 1 ∧ FaultCode.linesNotDistinct.code = 2
    ∧ FaultCode.alreadyConstructed.code = 3 ∧ FaultCode.illegalCommand.code = 4)
  ∧ (∀ s t : State, step s = .next t →
      t.fault = s.fault ∨ (s.fault.code = 0 ∧ ∃ c, t = raiseFault c { s with port := s.port.tail }))
  ∧ (∀ s t : State, step s = .next t → s.fault.code ≠ 0 → t.fault = s.fault)

/-- R208 and R209: a command word reports the first fault of the priority order, computed from the word
and `bound` alone, and nothing else faults. -/
def Obligations.EachCommandReportsTheFirstFault : Prop :=
  ∀ (s : State) (w : Word) (rest : List Request), s.fault = .noFault → s.port = .command w :: rest →
    ∃ t, step s = .next t ∧ t.fault = specFault s w

/-- R201: SETF, READ and READC before INIT raise `NOT_CONSTRUCTED` before any event; ENC does not. -/
def Obligations.TransactionsBeforeInitRaiseNotConstructed : Prop :=
  ∀ s : State, s.fault = .noFault → s.bound = false →
    (∀ f : Int, exec (.setf f) s = .next { s with fault := .notConstructed })
    ∧ (∀ a : RegAddr, exec (.read a) s = .next { s with fault := .notConstructed })
    ∧ (∀ a : RegAddr, s.cfg.hasReadc = true →
        exec (.readc a) s = .next { s with fault := .notConstructed })
    ∧ (∀ f : Int, ∃ t, exec (.enc f) s = .next t ∧ t.fault = .noFault)

/-- The wire frames need bound lines as the commands that emit them do (the model's choice, log 7). -/
def Obligations.FramesBeforeInitRaiseNotConstructed : Prop :=
  ∀ s : State, s.fault = .noFault → s.bound = false →
    (∀ d : Payload, exec (.frameWrite d) s = .next { s with fault := .notConstructed })
    ∧ (∀ a : RegAddr, exec (.frameReadHdr a) s = .next { s with fault := .notConstructed })

/-! ### Construction (44_construction.md) -/

/-- R181 with R202 and R203: the words that are INIT, and every case of its pseudocode in its order. -/
def Obligations.InitBindsThreeDistinctLinesOnce : Prop :=
  (∀ w : Word, wordBits w 31 28 = 1 →
    (wordBits w 27 24 = 0 → ∃ c e d : LineIdent, c.toNat = wordBits w 23 16
      ∧ e.toNat = wordBits w 15 8 ∧ d.toNat = wordBits w 7 0 ∧ RunsAs w (.init c e d))
    ∧ (wordBits w 27 24 ≠ 0 → RaisesIllegal w))
  ∧ ∀ (c e d : LineIdent) (s : State),
    (s.fault ≠ .noFault → exec (.init c e d) s = .next s)
    ∧ (s.fault = .noFault → s.bound = true →
        exec (.init c e d) s = .next { s with fault := .alreadyConstructed })
    ∧ (s.fault = .noFault → s.bound = false → (c = e ∨ c = d ∨ e = d) →
        exec (.init c e d) s = .next { s with fault := .linesNotDistinct })
    ∧ (s.fault = .noFault → s.bound = false → c ≠ e → c ≠ d → e ≠ d →
        exec (.init c e d) s = .next
          { s with
            bound := true
            lineId := { clk := some c, sel := some e, data := some d }
            lineDir := { clk := some .output, sel := some .output, data := some .output } })

/-- R182: INIT drives no line and appends no event, whatever it answers; R231: it is no reset. -/
def Obligations.InitFrame : Prop :=
  ∀ (c e d : LineIdent) (s t : State), exec (.init c e d) s = .next t →
    t.level = s.level ∧ t.trace = s.trace ∧ t.phase = s.phase ∧ t.j = s.j ∧ t.acc = s.acc
    ∧ t.cfg = s.cfg ∧ t.port = s.port ∧ t.samples = s.samples ∧ t.draws = s.draws
    ∧ t.received = s.received

/-- R21 and R23: `bound` and the directions are 0 and without value at power-up, written only by INIT,
which sets every line to OUTPUT, and never changed again (a read does not switch DATA). -/
def Obligations.BindingIsWrittenOnlyByInit : Prop :=
  State.reset.bound = false
  ∧ State.reset.lineId = { clk := none, sel := none, data := none }
  ∧ State.reset.lineDir = { clk := none, sel := none, data := none }
  ∧ (∀ s t : State, step s = .next t →
      (t.bound = s.bound ∧ t.lineId = s.lineId ∧ t.lineDir = s.lineDir)
      ∨ (s.bound = false ∧ t.bound = true
        ∧ t.lineDir = { clk := some .output, sel := some .output, data := some .output }
        ∧ ∃ r rest c e d, s.port = r :: rest ∧ decode s.cfg.hasReadc r = .instr (.init c e d)
          ∧ c ≠ e ∧ c ≠ d ∧ e ≠ d ∧ t.lineId = { clk := some c, sel := some e, data := some d }))
  ∧ (∀ s t : State, step s = .next t → s.bound = true →
      t.bound = true ∧ t.lineId = s.lineId ∧ t.lineDir = s.lineDir)

/-! ### Encoder and ENC (41_encoder.md) -/

/-- R122: the encoder on every integer, and where its reduction changes nothing. -/
def Obligations.EncoderFollowsTheFormula : Prop :=
  (∀ f : Int, ((encodeFreq f).toNat : Int) = specRaw f % 2 ^ 20)
  ∧ (∀ f : Int, 479 ≤ f → f ≤ 2 ^ 19 + 478 → ((encodeFreq f).toNat : Int) = specRaw f)

/-- R121: every word with opcode 4 is ENC; it returns `encode(freq)` and changes nothing else; it needs no
construction. -/
def Obligations.EncReturnsTheEncodedValue : Prop :=
  (∀ w : Word, wordBits w 31 28 = 4 → RunsAs w (.enc (wordFreq w)))
  ∧ ∀ (f : Int) (s : State),
    (s.fault ≠ .noFault → exec (.enc f) s = .next s)
    ∧ (s.fault = .noFault →
        exec (.enc f) s = .next { s with received := s.received ++ [BitVec.ofInt 20 (specRaw f)] })

/-- `A` is below 32 for every integer, so bits [6:5] of the value are 0 (41_encoder.md section 1). -/
def Obligations.EncodedFractionIsBelow32 : Prop :=
  ∀ f : Int, 0 ≤ fractionA f ∧ fractionA f ≤ 31
    ∧ (encodeFreq f).getLsbD 5 = false ∧ (encodeFreq f).getLsbD 6 = false
    ∧ (encodeFreq f).toNat % 32 = (fractionA f).toNat

/-- The round-trip law (41_encoder.md section 3): N and A give back f when it is odd and f - 1 when it is
even. -/
def Obligations.EncoderRoundTrip : Prop :=
  ∀ f : Int, (divisorN f * 32 + fractionA f) * 2 + 479 = if f % 2 = 1 then f else f - 1

/-- `raw = k + 96 N`, so for k ≥ 0 it grows strictly with k (41_encoder.md section 3). -/
def Obligations.RawValueGrowsWithTheStep : Prop :=
  (∀ f : Int, rawValue f = intermediate f + 96 * divisorN f)
  ∧ (∀ f g : Int, 0 ≤ intermediate f → intermediate f < intermediate g → rawValue f < rawValue g)

/-- Two frequencies of [479, 33246] collide on the 16-bit payload exactly when they share k
(41_encoder.md section 3). -/
def Obligations.PayloadsCollideOnlyInPairs : Prop :=
  ∀ f g : Int, 479 ≤ f → f ≤ 33246 → 479 ≤ g → g ≤ 33246 →
    (payload f = payload g ↔ (f - 479) / 2 = (g - 479) / 2)

/-- The practical domain, and where the payload loses nothing (41_encoder.md section 3). -/
def Obligations.PayloadCarriesTheWholeValue : Prop :=
  (∀ f : Int, 479 ≤ f → f ≤ 33246 → (payload f).toNat = (encodeFreq f).toNat)
  ∧ (∀ f : Int, 5345 ≤ f → f ≤ 5945 →
      0x2601 ≤ (encodeFreq f).toNat ∧ (encodeFreq f).toNat ≤ 0x2A8D)
  ∧ encodeFreq 33247 = 0x10000#20 ∧ payload 33247 = 0#16

/-- The frame of ENC: everything but what the host receives stays. -/
def Obligations.EncFrame : Prop :=
  ∀ (f : Int) (s t : State), exec (.enc f) s = .next t →
    { t with received := s.received } = s ∧ s.received <+: t.received

/-! ### Line primitives (40_line_primitives.md) -/

/-- R101: LineWrite drives its line, appends one SET, and leaves the other lines and all else. -/
def Obligations.LineWriteDrivesOneLine : Prop :=
  ∀ (l : Line) (b : Bool) (s : State),
    (lineWrite l b s).level.get l = Level.ofBit b
    ∧ (∀ m : Line, m ≠ l → (lineWrite l b s).level.get m = s.level.get m)
    ∧ lineWrite l b s =
        { s with level := (lineWrite l b s).level, trace := s.trace ++ [.set l b] }

/-- R103: LineSample returns the drawn bit and appends it; no level and no direction changes. In every
state the environment may present either bit. -/
def Obligations.LineSampleReturnsTheDraw : Prop :=
  (∀ s : State, (lineSample s).1 = s.sampleAt 0
    ∧ (lineSample s).2 =
        { s with
          trace := s.trace ++ [.smp (s.sampleAt 0)]
          samples := s.samples.drop 1
          draws := s.draws + 1 })
  ∧ (∀ (b : Bool) (s : State), (lineSample { s with samples := b :: s.samples }).1 = b)

/-- R104 to R107: the events of each transmit primitive and the levels it leaves. -/
def Obligations.TransmitPrimitivesAppendTheirEvents : Prop :=
  ∀ s : State,
    (∀ b : Bool, sendBit b s =
      { s with
        level := { clk := .low, sel := s.level.sel, data := Level.ofBit b }
        trace := s.trace ++
          [.set .clk false, .dly, .set .data b, .dly, .set .clk true, .dly, .set .clk false, .dly] })
    ∧ enableBegin s =
      { s with
        level := { s.level with sel := .low }
        trace := s.trace ++ [.set .sel true, .dly, .set .sel false, .dly] }
    ∧ enableEnd s =
      { s with
        level := { s.level with sel := .high }
        trace := s.trace ++ [.set .sel true, .dly] }
    ∧ park s =
      { s with
        level := { clk := .low, sel := .low, data := .low }
        trace := s.trace ++ [.set .sel false, .set .clk false, .set .data false] }

/-- R108: one receive pulse, for both sample points. -/
def Obligations.ReceivePulseSamplesOnce : Prop :=
  ∀ s : State, (recvBit s).1 = s.sampleAt 0
    ∧ (recvBit s).2 =
      { s with
        level := { s.level with clk := .low }
        trace := s.trace ++
          (match s.cfg.samplePoint with
          | .endOfHigh => [.set .clk false, .dly, .set .clk true, .dly, .smp (s.sampleAt 0),
              .set .clk false, .dly]
          | .afterFall => [.set .clk false, .dly, .set .clk true, .dly, .set .clk false, .dly,
              .smp (s.sampleAt 0)])
        samples := s.samples.drop 1
        draws := s.draws + 1 }

/-- R109: SEND_FIELD sends the low w bits, least significant first, 8 w events. -/
def Obligations.SendFieldSendsLowBitsFirst : Prop :=
  ∀ (m : Nat) (v : BitVec m) (w : Nat) (s : State),
    (sendField v w s).trace
        = s.trace ++ (List.range w).flatMap (fun i => sendBitEvents (v.getLsbD i))
    ∧ (sendField v w s).trace.length = s.trace.length + 8 * w

/-! ### Write (42_write.md) -/

/-- R141: every word with opcode 2 is SETF; every case of its pseudocode: the exact next state. -/
def Obligations.SetfSendsTheEncodedFrame : Prop :=
  (∀ w : Word, wordBits w 31 28 = 2 → RunsAs w (.setf (wordFreq w)))
  ∧ ∀ (f : Int) (s : State),
    (s.fault ≠ .noFault → exec (.setf f) s = .next s)
    ∧ (s.fault = .noFault → s.bound = false →
        exec (.setf f) s = .next { s with fault := .notConstructed })
    ∧ (s.fault = .noFault → s.bound = true →
        exec (.setf f) s = .next
          { s with
            level := { clk := .low, sel := .low, data := .low }
            phase := .idle
            j := none
            trace := s.trace
              ++ specWriteTrace (fun i => (BitVec.ofInt 20 (specRaw f)).getLsbD i) })

/-- FRAME_WRITE sends its frame (the model's reading, log 7), and SETF is FRAME_WRITE of the payload. -/
def Obligations.FrameWriteSendsItsData : Prop :=
  (∀ (d : Payload) (s : State), s.fault = .noFault → s.bound = true →
    exec (.frameWrite d) s = .next
      { s with
        level := { clk := .low, sel := .low, data := .low }
        phase := .idle
        j := none
        trace := s.trace ++ specWriteTrace (fun i => d.getLsbD i) })
  ∧ (∀ (f : Int) (s : State), exec (.setf f) s = exec (.frameWrite (payload f)) s)

/-- R71: what a wire observer records of a SETF at the rising edges is the write frame, bit by bit. -/
def Obligations.SetfFrameOnTheWire : Prop :=
  ∀ (f : Int) (s : State), s.fault = .noFault → s.bound = true →
    ∃ t es, exec (.setf f) s = .next t ∧ t.trace = s.trace ++ es
      ∧ risingBits s.level es =
          (List.range 25).map (fun n => Level.ofBit (specFrameBit (encodeFreq f).getLsbD n))

/-- DATA is the same at the fall of each pulse, and the 25 bits are the frame word, `1 + 16 + reg * 32`
(40_line_primitives.md section 5, 30_encoding.md section 2). CLK is not high between commands, by the
invariant that `EveryStepKeepsTheInvariant` states. -/
def Obligations.SetfFrameOnBothEdges : Prop :=
  (∀ d : Payload, (writeFrameWord d).toNat = 1 + 16 + d.toNat * 32)
  ∧ (∀ (f : Int) (s : State), s.fault = .noFault → s.bound = true → s.level.clk ≠ .high →
    ∃ t es, exec (.setf f) s = .next t ∧ t.trace = s.trace ++ es
      ∧ risingBits s.level es = fallingBits s.level es
      ∧ risingBits s.level es =
          (List.range 25).map (fun n => Level.ofBit ((writeFrameWord (payload f)).getLsbD n)))

/-- The events of a SETF depend on the pair of its frequency alone, not on the state before
(20_memory.md section 4, 41_encoder.md section 3). -/
def Obligations.SetfEventsDependOnlyOnTheOperand : Prop :=
  ∀ f g : Int, (f - 479) / 2 = (g - 479) / 2 →
    ∃ es, ∀ s : State, s.fault = .noFault → s.bound = true →
      ∃ t u, exec (.setf f) s = .next t ∧ exec (.setf g) s = .next u
        ∧ t.trace = s.trace ++ es ∧ u.trace = s.trace ++ es

/-- In the first transaction, whichever it is, SEL is `U` until the first event, CLK until the fifth and
DATA until the seventh; after it no line is `U`, and a driven line is never `U` again (42_write.md, end).
For the two frames it rests on the model's reading (logs 7 and 8). -/
def Obligations.FirstTransactionDrivesTheLines : Prop :=
  (∀ s : State, s.fault = .noFault → s.bound = true →
    s.level = { clk := .unknown, sel := .unknown, data := .unknown } →
    (∀ f : Int, FirstDrives (.setf f) s) ∧ (∀ a : RegAddr, FirstDrives (.read a) s)
    ∧ (∀ a : RegAddr, s.cfg.hasReadc = true → FirstDrives (.readc a) s)
    ∧ (∀ d : Payload, FirstDrives (.frameWrite d) s) ∧ (∀ a : RegAddr, FirstDrives (.frameReadHdr a) s))
  ∧ (∀ s t : State, step s = .next t →
      ∀ l : Line, s.level.get l ≠ .unknown → t.level.get l ≠ .unknown)

/-- The frame of SETF and FRAME_WRITE, whatever they answer. -/
def Obligations.WriteFrameUnchanged : Prop :=
  ∀ (i : Instr) (s t : State), ((∃ f, i = .setf f) ∨ (∃ d, i = .frameWrite d)) → exec i s = .next t →
    t.bound = s.bound ∧ t.lineId = s.lineId ∧ t.lineDir = s.lineDir ∧ t.acc = s.acc ∧ t.cfg = s.cfg
    ∧ t.port = s.port ∧ t.samples = s.samples ∧ t.draws = s.draws ∧ t.received = s.received

/-! ### Read (43_read.md) -/

/-- R161 with R162 and R163: the words that are READ, and every case of its pseudocode, for both values
of `READ_PARKS`. -/
def Obligations.ReadReturnsTheLastSample : Prop :=
  (∀ w : Word, wordBits w 31 28 = 3 →
    (wordBits w 27 4 = 0 → ∃ a : RegAddr, a.toNat = wordBits w 3 0 ∧ RunsAs w (.read a))
    ∧ (wordBits w 27 4 ≠ 0 → RaisesIllegal w))
  ∧ ∀ (a : RegAddr) (s : State),
    (s.fault ≠ .noFault → exec (.read a) s = .next s)
    ∧ (s.fault = .noFault → s.bound = false →
        exec (.read a) s = .next { s with fault := .notConstructed })
    ∧ (s.fault = .noFault → s.bound = true →
        exec (.read a) s = .next
          { s with
            level := { clk := .low, sel := if s.cfg.readParks then .low else .high, data := .low }
            phase := .idle
            j := none
            acc := none
            trace := s.trace ++ specReadTrace a s
            samples := s.samples.drop 20
            draws := s.draws + 20
            received := s.received ++ [if s.sampleAt 19 then 1#20 else 0#20] })

/-- R166 with R167: the words that are READC, and every case; its value is the sum of `s_r * 2^r`. -/
def Obligations.ReadcReturnsAllSamples : Prop :=
  (∀ w : Word, wordBits w 31 28 = 5 →
    (wordBits w 27 4 = 0 → ∃ a : RegAddr, a.toNat = wordBits w 3 0 ∧ RunsAs w (.readc a))
    ∧ (wordBits w 27 4 ≠ 0 → RaisesIllegal w))
  ∧ ∀ (a : RegAddr) (s : State),
    (s.fault ≠ .noFault → exec (.readc a) s = .next s)
    ∧ (s.fault = .noFault → s.cfg.hasReadc = false →
        exec (.readc a) s = .next { s with fault := .illegalCommand })
    ∧ (s.fault = .noFault → s.cfg.hasReadc = true → s.bound = false →
        exec (.readc a) s = .next { s with fault := .notConstructed })
    ∧ (s.fault = .noFault → s.cfg.hasReadc = true → s.bound = true →
        exec (.readc a) s = .next
          { s with
            level := { clk := .low, sel := if s.cfg.readParks then .low else .high, data := .low }
            phase := .idle
            j := none
            acc := none
            trace := s.trace ++ specReadTrace a s
            samples := s.samples.drop 20
            draws := s.draws + 20
            received := s.received ++ [sampleSum s 20] })

/-- FRAME_READ_HDR runs the read on the wire and hands nothing to the host (the model's reading, logs 7
and 8). -/
def Obligations.FrameReadHeaderRunsTheReadOnTheWire : Prop :=
  ∀ (a : RegAddr) (s : State), s.fault = .noFault → s.bound = true →
    exec (.frameReadHdr a) s = .next
      { s with
        level := { clk := .low, sel := if s.cfg.readParks then .low else .high, data := .low }
        phase := .idle
        j := none
        acc := none
        trace := s.trace ++ specReadTrace a s
        samples := s.samples.drop 20
        draws := s.draws + 20 }

/-- READ and READC append the same events, READ's value is bit 19 of READC's, and bit r of READC's is
sample r (43_read.md section 2). -/
def Obligations.ReadIsBit19OfReadc : Prop :=
  ∀ (a : RegAddr) (s : State), s.fault = .noFault → s.bound = true → s.cfg.hasReadc = true →
    ∃ t u v w, exec (.read a) s = .next t ∧ exec (.readc a) s = .next u ∧ t.trace = u.trace
      ∧ t.received = s.received ++ [v] ∧ u.received = s.received ++ [w]
      ∧ v.toNat = (w.getLsbD 19).toNat
      ∧ (∀ r : Nat, r < 20 → w.getLsbD r = s.sampleAt r)

/-- A read on the wire: the header's five bits, twenty pulses with DATA at 0, twenty samples in order
(95_test_vectors.md section 6). -/
def Obligations.ReadHeaderOnTheWire : Prop :=
  ∀ (a : RegAddr) (s : State), s.fault = .noFault → s.bound = true →
    ∃ t es, exec (.read a) s = .next t ∧ t.trace = s.trace ++ es
      ∧ risingBits s.level es =
          (List.range 5).map (fun n => Level.ofBit ((readHeaderWord a).getLsbD n))
            ++ List.replicate 20 .low
      ∧ sampledBits es = (List.range 20).map s.sampleAt
      ∧ (readHeaderWord a).toNat = a.toNat

/-- The frame of READ, READC and FRAME_READ_HDR, whatever they answer. -/
def Obligations.ReadFrameUnchanged : Prop :=
  ∀ (i : Instr) (s t : State),
    ((∃ a, i = .read a) ∨ (∃ a, i = .readc a) ∨ (∃ a, i = .frameReadHdr a)) → exec i s = .next t →
    t.bound = s.bound ∧ t.lineId = s.lineId ∧ t.lineDir = s.lineDir ∧ t.cfg = s.cfg
    ∧ t.port = s.port
    ∧ ((∃ a, i = .frameReadHdr a) → t.received = s.received)

/-! ### Counts and time (70_reset_and_hazards.md) -/

/-- The events of every row by kind (70_reset_and_hazards.md section 4): a SETF 106 SET and 103 DLY; a read
83 SET, or 86 with parking, 83 DLY and 20 SMP; INIT and ENC none, whatever they answer. The frames have the
counts of the transactions that the model runs for them (logs 7 and 8). -/
def Obligations.CommandsAppendTheirEventCounts : Prop :=
  (∀ s : State, s.fault = .noFault → s.bound = true →
    (∀ f : Int, AppendsCounts (.setf f) s 106 103 0)
    ∧ (∀ a : RegAddr, AppendsCounts (.read a) s (if s.cfg.readParks then 86 else 83) 83 20)
    ∧ (∀ a : RegAddr, s.cfg.hasReadc = true →
        AppendsCounts (.readc a) s (if s.cfg.readParks then 86 else 83) 83 20)
    ∧ (∀ d : Payload, AppendsCounts (.frameWrite d) s 106 103 0)
    ∧ (∀ a : RegAddr, AppendsCounts (.frameReadHdr a) s (if s.cfg.readParks then 86 else 83) 83 20))
  ∧ (∀ s : State, (∀ c e d : LineIdent, AppendsCounts (.init c e d) s 0 0 0)
    ∧ (∀ f : Int, AppendsCounts (.enc f) s 0 0 0))

/-- No piece of trace is shorter than its delays allow, any longer duration is possible, and a SETF lasts
at least 103 `T_DELAY` (70_reset_and_hazards.md sections 3 and 4; the duration is the model's, log 11). -/
def Obligations.DelaysBoundTheDurationBelow : Prop :=
  (∀ (stretch : Nat → Nat) (k : Nat) (es : List Event), leastDuration es ≤ duration stretch k es)
  ∧ (∀ (k : Nat) (e : Event) (es : List Event) (n : Nat), leastDuration (e :: es) ≤ n →
      ∃ stretch, duration stretch k (e :: es) = n)
  ∧ (∀ (f : Int) (s : State), s.fault = .noFault → s.bound = true →
      ∃ t es, exec (.setf f) s = .next t ∧ t.trace = s.trace ++ es
        ∧ ∀ stretch, 103 * Config.tDelay ≤ duration stretch s.trace.length es)

/-! ### The sequencer (10_state.md, 44_construction.md) -/

/-- R27: the positions that the sequencer visits, tick by tick, and that it returns to `Idle`. -/
def Obligations.SequencerVisitsItsPositions : Prop :=
  (∀ (reg : Payload) (s : State),
    (List.range 28).map (fun n =>
        ((runTicks (.write reg) n (startTransaction s)).phase,
          (runTicks (.write reg) n (startTransaction s)).j))
      = [(Phase.enableAsserting, none)]
        ++ (List.range 4).map (fun k => (Phase.transmittingAddress, some k))
        ++ [(Phase.transmittingRWFlag, some 0)]
        ++ (List.range 16).map (fun k => (Phase.transmittingData, some k))
        ++ (List.range 4).map (fun k => (Phase.transmittingPadding, some k))
        ++ [(Phase.enableDeasserting, none), (Phase.idle, none)])
  ∧ (∀ (m : ReadMode) (a : RegAddr) (s : State),
    (List.range 28).map (fun n =>
        ((runTicks (.read m a) n (startTransaction s)).phase,
          (runTicks (.read m a) n (startTransaction s)).j))
      = [(Phase.enableAsserting, none)]
        ++ (List.range 4).map (fun k => (Phase.transmittingAddress, some k))
        ++ [(Phase.transmittingRWFlag, some 0)]
        ++ (List.range 20).map (fun k => (Phase.receivingData, some k))
        ++ [(Phase.enableDeasserting, none), (Phase.idle, none)])

/-- The sequencer of ticks and the commands' straight-line pseudocode are the same machine
(44_construction.md section 2). -/
def Obligations.SequencerRefinesTheTransactions : Prop :=
  (∀ (reg : Payload) (s : State),
    runTicks (.write reg) 27 (startTransaction s) = writeTransaction reg s)
  ∧ (∀ (m : ReadMode) (a : RegAddr) (s : State),
    runTicks (.read m a) 27 (startTransaction s) = readTransaction m a s)
  ∧ (∀ s : State, s.fault = .noFault → s.bound = true →
    (∀ f : Int, exec (.setf f) s = .next (runTicks (.write (payload f)) 27 (startTransaction s)))
    ∧ (∀ a : RegAddr,
        exec (.read a) s = .next (returnAcc (runTicks (.read .latest a) 27 (startTransaction s))))
    ∧ (∀ a : RegAddr, s.cfg.hasReadc = true →
        exec (.readc a) s = .next (returnAcc (runTicks (.read .shifted a) 27 (startTransaction s)))))

/-- Inside a frame SEL stays 0 and every bit ends with CLK = 0 (40_line_primitives.md section 5,
42_write.md). -/
def Obligations.SelectIsLowInsideTheFrame : Prop :=
  ∀ (x : Transaction) (s : State) (n : Nat),
    (1 ≤ n → n ≤ 26 → (runTicks x n (startTransaction s)).level.sel = .low)
    ∧ (2 ≤ n → (runTicks x n (startTransaction s)).level.clk = .low)
    ∧ (6 ≤ n → (∃ m a, x = .read m a) → (runTicks x n (startTransaction s)).level.data = .low)
    ∧ (26 ≤ n → (runTicks x n (startTransaction s)).level.data = .low)

/-! ### Invariants of every step -/

/-- R35: the power-up state. -/
def Obligations.PowerUpState : Prop :=
  State.reset.bound = false
  ∧ State.reset.lineId = { clk := none, sel := none, data := none }
  ∧ State.reset.lineDir = { clk := none, sel := none, data := none }
  ∧ State.reset.level = { clk := .unknown, sel := .unknown, data := .unknown }
  ∧ State.reset.phase = .idle ∧ State.reset.j = none ∧ State.reset.acc = none
  ∧ State.reset.fault.code = 0 ∧ State.reset.trace = []

/-- Every step keeps the invariant of the block between commands: at rest, a consistent binding, the
levels that the trace drove, the lines at their idle levels, the fault that fits the binding. -/
def Obligations.EveryStepKeepsTheInvariant : Prop :=
  ∀ s t : State, s.Inv → step s = .next t → t.Inv

/-- The invariant holds at power-up. -/
def Obligations.PowerUpMeetsTheInvariant : Prop := State.reset.Inv

/-- R34: the trace starts empty, every primitive appends one event to it, and no step removes from it. -/
def Obligations.TraceOnlyGrows : Prop :=
  State.reset.trace = []
  ∧ (∀ (l : Line) (b : Bool) (s : State), (lineWrite l b s).trace = s.trace ++ [.set l b])
  ∧ (∀ s : State, (delay s).trace = s.trace ++ [.dly])
  ∧ (∀ s : State, (lineSample s).2.trace = s.trace ++ [.smp (lineSample s).1])
  ∧ (∀ s t : State, step s = .next t → s.trace <+: t.trace)

/-- The parameters are fixed for a whole run and a step takes at most the oldest request
(92_eei_decisions.md D30, D20). -/
def Obligations.StepsKeepTheParameters : Prop :=
  ∀ s t : State, step s = .next t → t.cfg = s.cfg ∧ t.port = s.port.tail

/-- R147 and R74: whatever commands the host issues, the wire carries write frames only to address 1, of
encoded values, with zero padding, and otherwise read headers with flag 0. -/
def Obligations.HostCommandsEmitOnlyLegalFrames : Prop :=
  ∀ s t : State, s.HostOnly → step s = .next t →
    t.HostOnly
    ∧ ∃ es, t.trace = s.trace ++ es
      ∧ (es = []
        ∨ (∃ f : Int, -2 ^ 27 ≤ f ∧ f < 2 ^ 27 ∧ risingBits s.level es =
            (List.range 25).map (fun n => Level.ofBit (specFrameBit (encodeFreq f).getLsbD n)))
        ∨ (∃ a : RegAddr, risingBits s.level es =
            (List.range 4).map (fun n => Level.ofBit (a.getLsbD n)) ++ List.replicate 21 .low))

/-! ### Assembler (30_encoding.md R86) -/

/-- R86: a written command assembles to exactly that command, with every operand the number that is
written, in decimal or hexadecimal, with or without a comment; an operand outside its field's range is an
error; and whatever is accepted fits its fields and is encoded as a command word that is read back as it.
The blanks of the line are the model's choice (log 15). -/
def Obligations.AssembledLinesAreLegalCommands : Prop :=
  (∀ (line : List Char) (i : Instr), assembleLine line = .instr i →
    i.wellFormed true = true ∧ (encode i).isCommand = true ∧ decode true (encode i) = .instr i
    ∧ assembleRequest line = some (encode i))
  ∧ (∀ (hc he hd : Bool) (c e d : Nat) (com : Option (List Char)),
    assembleLine (['I', 'N', 'I', 'T', ' '] ++ numText hc c ++ [',', ' '] ++ numText he e ++ [',', ' ']
        ++ numText hd d ++ commentText com)
      = if c < 256 ∧ e < 256 ∧ d < 256 then
          .instr (.init (BitVec.ofNat 8 c) (BitVec.ofNat 8 e) (BitVec.ofNat 8 d))
        else .error .outOfRange)
  ∧ (∀ (hex : Bool) (f : Int) (com : Option (List Char)),
    assembleLine (['S', 'E', 'T', 'F', ' '] ++ freqText hex f ++ commentText com)
        = (if -2 ^ 27 ≤ f ∧ f < 2 ^ 27 then .instr (.setf f) else .error .outOfRange)
    ∧ assembleLine (['E', 'N', 'C', ' '] ++ freqText hex f ++ commentText com)
        = (if -2 ^ 27 ≤ f ∧ f < 2 ^ 27 then .instr (.enc f) else .error .outOfRange))
  ∧ (∀ (hex : Bool) (a : Nat) (com : Option (List Char)),
    assembleLine (['R', 'E', 'A', 'D', ' '] ++ numText hex a ++ commentText com)
        = (if a < 16 then .instr (.read (BitVec.ofNat 4 a)) else .error .outOfRange)
    ∧ assembleLine (['R', 'E', 'A', 'D', 'C', ' '] ++ numText hex a ++ commentText com)
        = (if a < 16 then .instr (.readc (BitVec.ofNat 4 a)) else .error .outOfRange))

/-- The same for an operand of any text: what the command assembles to follows from the number that the
text reads as, out of range or no number included; and no other mnemonic is a command (R86: no
pseudo-instructions). The details of the text are the model's choice (log 15). -/
def Obligations.OperandTextsDecideTheAssembledLine : Prop :=
  (∀ (c e d : List Char) (com : Option (List Char)), PlainText c → PlainText e → PlainText d → d ≠ [] →
    assembleLine (['I', 'N', 'I', 'T', ' '] ++ c ++ [',', ' '] ++ e ++ [',', ' '] ++ d ++ commentText com)
      = specInit (readNat c) (readNat e) (readNat d))
  ∧ (∀ (op : List Char) (com : Option (List Char)), PlainText op → op ≠ [] →
    assembleLine (['S', 'E', 'T', 'F', ' '] ++ op ++ commentText com) = specFreq .setf (readInt op)
    ∧ assembleLine (['E', 'N', 'C', ' '] ++ op ++ commentText com) = specFreq .enc (readInt op)
    ∧ assembleLine (['R', 'E', 'A', 'D', ' '] ++ op ++ commentText com) = specAddr .read (readNat op)
    ∧ assembleLine (['R', 'E', 'A', 'D', 'C', ' '] ++ op ++ commentText com)
        = specAddr .readc (readNat op))
  ∧ (∀ name rest : List Char, PlainText name → name ≠ [] → name ≠ ['I', 'N', 'I', 'T'] →
    name ≠ ['S', 'E', 'T', 'F'] → name ≠ ['R', 'E', 'A', 'D'] → name ≠ ['R', 'E', 'A', 'D', 'C'] →
    name ≠ ['E', 'N', 'C'] → assembleLine (name ++ ' ' :: rest) = .error .unknownMnemonic)
end

