-- ==== Sys2Proof/Laws/State.lean ====
section
/-! SUPPORT. What each update of the state leaves in each field: one lemma per field and update. -/

namespace Sys2Proof.Machine

/-! ### State.emit -/

@[simp] theorem State.emit_bound (e : Event) (s : State) : (s.emit e).bound = s.bound := rfl
@[simp] theorem State.emit_lineId (e : Event) (s : State) : (s.emit e).lineId = s.lineId := rfl
@[simp] theorem State.emit_lineDir (e : Event) (s : State) : (s.emit e).lineDir = s.lineDir := rfl
@[simp] theorem State.emit_level (e : Event) (s : State) : (s.emit e).level = s.level := rfl
@[simp] theorem State.emit_phase (e : Event) (s : State) : (s.emit e).phase = s.phase := rfl
@[simp] theorem State.emit_j (e : Event) (s : State) : (s.emit e).j = s.j := rfl
@[simp] theorem State.emit_acc (e : Event) (s : State) : (s.emit e).acc = s.acc := rfl
@[simp] theorem State.emit_fault (e : Event) (s : State) : (s.emit e).fault = s.fault := rfl
@[simp] theorem State.emit_trace (e : Event) (s : State) : (s.emit e).trace = s.trace ++ [e] := rfl
@[simp] theorem State.emit_cfg (e : Event) (s : State) : (s.emit e).cfg = s.cfg := rfl
@[simp] theorem State.emit_port (e : Event) (s : State) : (s.emit e).port = s.port := rfl
@[simp] theorem State.emit_samples (e : Event) (s : State) : (s.emit e).samples = s.samples := rfl
@[simp] theorem State.emit_draws (e : Event) (s : State) : (s.emit e).draws = s.draws := rfl
@[simp] theorem State.emit_received (e : Event) (s : State) : (s.emit e).received = s.received := rfl

/-! ### lineWrite -/

@[simp] theorem lineWrite_bound (l : Line) (b : Bool) (s : State) : (lineWrite l b s).bound = s.bound := rfl
@[simp] theorem lineWrite_lineId (l : Line) (b : Bool) (s : State) : (lineWrite l b s).lineId = s.lineId := rfl
@[simp] theorem lineWrite_lineDir (l : Line) (b : Bool) (s : State) : (lineWrite l b s).lineDir = s.lineDir := rfl
@[simp] theorem lineWrite_level (l : Line) (b : Bool) (s : State) : (lineWrite l b s).level = s.level.set l (Level.ofBit b) := rfl
@[simp] theorem lineWrite_phase (l : Line) (b : Bool) (s : State) : (lineWrite l b s).phase = s.phase := rfl
@[simp] theorem lineWrite_j (l : Line) (b : Bool) (s : State) : (lineWrite l b s).j = s.j := rfl
@[simp] theorem lineWrite_acc (l : Line) (b : Bool) (s : State) : (lineWrite l b s).acc = s.acc := rfl
@[simp] theorem lineWrite_fault (l : Line) (b : Bool) (s : State) : (lineWrite l b s).fault = s.fault := rfl
@[simp] theorem lineWrite_trace (l : Line) (b : Bool) (s : State) : (lineWrite l b s).trace = s.trace ++ [.set l b] := rfl
@[simp] theorem lineWrite_cfg (l : Line) (b : Bool) (s : State) : (lineWrite l b s).cfg = s.cfg := rfl
@[simp] theorem lineWrite_port (l : Line) (b : Bool) (s : State) : (lineWrite l b s).port = s.port := rfl
@[simp] theorem lineWrite_samples (l : Line) (b : Bool) (s : State) : (lineWrite l b s).samples = s.samples := rfl
@[simp] theorem lineWrite_draws (l : Line) (b : Bool) (s : State) : (lineWrite l b s).draws = s.draws := rfl
@[simp] theorem lineWrite_received (l : Line) (b : Bool) (s : State) : (lineWrite l b s).received = s.received := rfl

/-! ### delay -/

@[simp] theorem delay_bound (s : State) : (delay s).bound = s.bound := rfl
@[simp] theorem delay_lineId (s : State) : (delay s).lineId = s.lineId := rfl
@[simp] theorem delay_lineDir (s : State) : (delay s).lineDir = s.lineDir := rfl
@[simp] theorem delay_level (s : State) : (delay s).level = s.level := rfl
@[simp] theorem delay_phase (s : State) : (delay s).phase = s.phase := rfl
@[simp] theorem delay_j (s : State) : (delay s).j = s.j := rfl
@[simp] theorem delay_acc (s : State) : (delay s).acc = s.acc := rfl
@[simp] theorem delay_fault (s : State) : (delay s).fault = s.fault := rfl
@[simp] theorem delay_trace (s : State) : (delay s).trace = s.trace ++ [.dly] := rfl
@[simp] theorem delay_cfg (s : State) : (delay s).cfg = s.cfg := rfl
@[simp] theorem delay_port (s : State) : (delay s).port = s.port := rfl
@[simp] theorem delay_samples (s : State) : (delay s).samples = s.samples := rfl
@[simp] theorem delay_draws (s : State) : (delay s).draws = s.draws := rfl
@[simp] theorem delay_received (s : State) : (delay s).received = s.received := rfl

/-! ### lineSample -/

@[simp] theorem lineSample_bound (s : State) : (lineSample s).2.bound = s.bound := rfl
@[simp] theorem lineSample_lineId (s : State) : (lineSample s).2.lineId = s.lineId := rfl
@[simp] theorem lineSample_lineDir (s : State) : (lineSample s).2.lineDir = s.lineDir := rfl
@[simp] theorem lineSample_level (s : State) : (lineSample s).2.level = s.level := rfl
@[simp] theorem lineSample_phase (s : State) : (lineSample s).2.phase = s.phase := rfl
@[simp] theorem lineSample_j (s : State) : (lineSample s).2.j = s.j := rfl
@[simp] theorem lineSample_acc (s : State) : (lineSample s).2.acc = s.acc := rfl
@[simp] theorem lineSample_fault (s : State) : (lineSample s).2.fault = s.fault := rfl
@[simp] theorem lineSample_trace (s : State) : (lineSample s).2.trace = s.trace ++ [.smp s.nextSample] := rfl
@[simp] theorem lineSample_cfg (s : State) : (lineSample s).2.cfg = s.cfg := rfl
@[simp] theorem lineSample_port (s : State) : (lineSample s).2.port = s.port := rfl
@[simp] theorem lineSample_samples (s : State) : (lineSample s).2.samples = s.samples.tail := rfl
@[simp] theorem lineSample_draws (s : State) : (lineSample s).2.draws = s.draws + 1 := rfl
@[simp] theorem lineSample_received (s : State) : (lineSample s).2.received = s.received := rfl

/-! ### State.enter -/

@[simp] theorem State.enter_bound (p : Phase) (s : State) : (s.enter p).bound = s.bound := rfl
@[simp] theorem State.enter_lineId (p : Phase) (s : State) : (s.enter p).lineId = s.lineId := rfl
@[simp] theorem State.enter_lineDir (p : Phase) (s : State) : (s.enter p).lineDir = s.lineDir := rfl
@[simp] theorem State.enter_level (p : Phase) (s : State) : (s.enter p).level = s.level := rfl
@[simp] theorem State.enter_phase (p : Phase) (s : State) : (s.enter p).phase = p := rfl
@[simp] theorem State.enter_j (p : Phase) (s : State) : (s.enter p).j = p.firstIndex := rfl
@[simp] theorem State.enter_acc (p : Phase) (s : State) : (s.enter p).acc = s.acc := rfl
@[simp] theorem State.enter_fault (p : Phase) (s : State) : (s.enter p).fault = s.fault := rfl
@[simp] theorem State.enter_trace (p : Phase) (s : State) : (s.enter p).trace = s.trace := rfl
@[simp] theorem State.enter_cfg (p : Phase) (s : State) : (s.enter p).cfg = s.cfg := rfl
@[simp] theorem State.enter_port (p : Phase) (s : State) : (s.enter p).port = s.port := rfl
@[simp] theorem State.enter_samples (p : Phase) (s : State) : (s.enter p).samples = s.samples := rfl
@[simp] theorem State.enter_draws (p : Phase) (s : State) : (s.enter p).draws = s.draws := rfl
@[simp] theorem State.enter_received (p : Phase) (s : State) : (s.enter p).received = s.received := rfl

/-! ### State.atBit -/

@[simp] theorem State.atBit_bound (k : Nat) (s : State) : (s.atBit k).bound = s.bound := rfl
@[simp] theorem State.atBit_lineId (k : Nat) (s : State) : (s.atBit k).lineId = s.lineId := rfl
@[simp] theorem State.atBit_lineDir (k : Nat) (s : State) : (s.atBit k).lineDir = s.lineDir := rfl
@[simp] theorem State.atBit_level (k : Nat) (s : State) : (s.atBit k).level = s.level := rfl
@[simp] theorem State.atBit_phase (k : Nat) (s : State) : (s.atBit k).phase = s.phase := rfl
@[simp] theorem State.atBit_j (k : Nat) (s : State) : (s.atBit k).j = some k := rfl
@[simp] theorem State.atBit_acc (k : Nat) (s : State) : (s.atBit k).acc = s.acc := rfl
@[simp] theorem State.atBit_fault (k : Nat) (s : State) : (s.atBit k).fault = s.fault := rfl
@[simp] theorem State.atBit_trace (k : Nat) (s : State) : (s.atBit k).trace = s.trace := rfl
@[simp] theorem State.atBit_cfg (k : Nat) (s : State) : (s.atBit k).cfg = s.cfg := rfl
@[simp] theorem State.atBit_port (k : Nat) (s : State) : (s.atBit k).port = s.port := rfl
@[simp] theorem State.atBit_samples (k : Nat) (s : State) : (s.atBit k).samples = s.samples := rfl
@[simp] theorem State.atBit_draws (k : Nat) (s : State) : (s.atBit k).draws = s.draws := rfl
@[simp] theorem State.atBit_received (k : Nat) (s : State) : (s.atBit k).received = s.received := rfl

/-! ### State.setAcc -/

@[simp] theorem State.setAcc_bound (v : RegValue) (s : State) : (s.setAcc v).bound = s.bound := rfl
@[simp] theorem State.setAcc_lineId (v : RegValue) (s : State) : (s.setAcc v).lineId = s.lineId := rfl
@[simp] theorem State.setAcc_lineDir (v : RegValue) (s : State) : (s.setAcc v).lineDir = s.lineDir := rfl
@[simp] theorem State.setAcc_level (v : RegValue) (s : State) : (s.setAcc v).level = s.level := rfl
@[simp] theorem State.setAcc_phase (v : RegValue) (s : State) : (s.setAcc v).phase = s.phase := rfl
@[simp] theorem State.setAcc_j (v : RegValue) (s : State) : (s.setAcc v).j = s.j := rfl
@[simp] theorem State.setAcc_acc (v : RegValue) (s : State) : (s.setAcc v).acc = some v := rfl
@[simp] theorem State.setAcc_fault (v : RegValue) (s : State) : (s.setAcc v).fault = s.fault := rfl
@[simp] theorem State.setAcc_trace (v : RegValue) (s : State) : (s.setAcc v).trace = s.trace := rfl
@[simp] theorem State.setAcc_cfg (v : RegValue) (s : State) : (s.setAcc v).cfg = s.cfg := rfl
@[simp] theorem State.setAcc_port (v : RegValue) (s : State) : (s.setAcc v).port = s.port := rfl
@[simp] theorem State.setAcc_samples (v : RegValue) (s : State) : (s.setAcc v).samples = s.samples := rfl
@[simp] theorem State.setAcc_draws (v : RegValue) (s : State) : (s.setAcc v).draws = s.draws := rfl
@[simp] theorem State.setAcc_received (v : RegValue) (s : State) : (s.setAcc v).received = s.received := rfl

/-! ### State.dropAcc -/

@[simp] theorem State.dropAcc_bound (s : State) : s.dropAcc.bound = s.bound := rfl
@[simp] theorem State.dropAcc_lineId (s : State) : s.dropAcc.lineId = s.lineId := rfl
@[simp] theorem State.dropAcc_lineDir (s : State) : s.dropAcc.lineDir = s.lineDir := rfl
@[simp] theorem State.dropAcc_level (s : State) : s.dropAcc.level = s.level := rfl
@[simp] theorem State.dropAcc_phase (s : State) : s.dropAcc.phase = s.phase := rfl
@[simp] theorem State.dropAcc_j (s : State) : s.dropAcc.j = s.j := rfl
@[simp] theorem State.dropAcc_acc (s : State) : s.dropAcc.acc = none := rfl
@[simp] theorem State.dropAcc_fault (s : State) : s.dropAcc.fault = s.fault := rfl
@[simp] theorem State.dropAcc_trace (s : State) : s.dropAcc.trace = s.trace := rfl
@[simp] theorem State.dropAcc_cfg (s : State) : s.dropAcc.cfg = s.cfg := rfl
@[simp] theorem State.dropAcc_port (s : State) : s.dropAcc.port = s.port := rfl
@[simp] theorem State.dropAcc_samples (s : State) : s.dropAcc.samples = s.samples := rfl
@[simp] theorem State.dropAcc_draws (s : State) : s.dropAcc.draws = s.draws := rfl
@[simp] theorem State.dropAcc_received (s : State) : s.dropAcc.received = s.received := rfl

/-! ### State.handToHost -/

@[simp] theorem State.handToHost_bound (v : RegValue) (s : State) : (s.handToHost v).bound = s.bound := rfl
@[simp] theorem State.handToHost_lineId (v : RegValue) (s : State) : (s.handToHost v).lineId = s.lineId := rfl
@[simp] theorem State.handToHost_lineDir (v : RegValue) (s : State) : (s.handToHost v).lineDir = s.lineDir := rfl
@[simp] theorem State.handToHost_level (v : RegValue) (s : State) : (s.handToHost v).level = s.level := rfl
@[simp] theorem State.handToHost_phase (v : RegValue) (s : State) : (s.handToHost v).phase = s.phase := rfl
@[simp] theorem State.handToHost_j (v : RegValue) (s : State) : (s.handToHost v).j = s.j := rfl
@[simp] theorem State.handToHost_acc (v : RegValue) (s : State) : (s.handToHost v).acc = s.acc := rfl
@[simp] theorem State.handToHost_fault (v : RegValue) (s : State) : (s.handToHost v).fault = s.fault := rfl
@[simp] theorem State.handToHost_trace (v : RegValue) (s : State) : (s.handToHost v).trace = s.trace := rfl
@[simp] theorem State.handToHost_cfg (v : RegValue) (s : State) : (s.handToHost v).cfg = s.cfg := rfl
@[simp] theorem State.handToHost_port (v : RegValue) (s : State) : (s.handToHost v).port = s.port := rfl
@[simp] theorem State.handToHost_samples (v : RegValue) (s : State) : (s.handToHost v).samples = s.samples := rfl
@[simp] theorem State.handToHost_draws (v : RegValue) (s : State) : (s.handToHost v).draws = s.draws := rfl
@[simp] theorem State.handToHost_received (v : RegValue) (s : State) : (s.handToHost v).received = s.received ++ [v] := rfl

/-! ### bindLines -/

@[simp] theorem bindLines_bound (c e d : LineIdent) (s : State) : (bindLines c e d s).bound = true := rfl
@[simp] theorem bindLines_lineId (c e d : LineIdent) (s : State) : (bindLines c e d s).lineId = { clk := some c, sel := some e, data := some d } := rfl
@[simp] theorem bindLines_lineDir (c e d : LineIdent) (s : State) : (bindLines c e d s).lineDir = PerLine.all (some .output) := rfl
@[simp] theorem bindLines_level (c e d : LineIdent) (s : State) : (bindLines c e d s).level = s.level := rfl
@[simp] theorem bindLines_phase (c e d : LineIdent) (s : State) : (bindLines c e d s).phase = s.phase := rfl
@[simp] theorem bindLines_j (c e d : LineIdent) (s : State) : (bindLines c e d s).j = s.j := rfl
@[simp] theorem bindLines_acc (c e d : LineIdent) (s : State) : (bindLines c e d s).acc = s.acc := rfl
@[simp] theorem bindLines_fault (c e d : LineIdent) (s : State) : (bindLines c e d s).fault = s.fault := rfl
@[simp] theorem bindLines_trace (c e d : LineIdent) (s : State) : (bindLines c e d s).trace = s.trace := rfl
@[simp] theorem bindLines_cfg (c e d : LineIdent) (s : State) : (bindLines c e d s).cfg = s.cfg := rfl
@[simp] theorem bindLines_port (c e d : LineIdent) (s : State) : (bindLines c e d s).port = s.port := rfl
@[simp] theorem bindLines_samples (c e d : LineIdent) (s : State) : (bindLines c e d s).samples = s.samples := rfl
@[simp] theorem bindLines_draws (c e d : LineIdent) (s : State) : (bindLines c e d s).draws = s.draws := rfl
@[simp] theorem bindLines_received (c e d : LineIdent) (s : State) : (bindLines c e d s).received = s.received := rfl

/-! ### raiseFault: only the fault register, and only while it holds 0 (R29, R205) -/

theorem raiseFault_fault (c : FaultCode) (s : State) :
    (raiseFault c s).fault = if s.fault = .noFault then c else s.fault := by
  unfold raiseFault; split <;> simp_all

@[simp] theorem raiseFault_bound (c : FaultCode) (s : State) : (raiseFault c s).bound = s.bound := by
  unfold raiseFault; split <;> rfl
@[simp] theorem raiseFault_lineId (c : FaultCode) (s : State) : (raiseFault c s).lineId = s.lineId := by
  unfold raiseFault; split <;> rfl
@[simp] theorem raiseFault_lineDir (c : FaultCode) (s : State) : (raiseFault c s).lineDir = s.lineDir := by
  unfold raiseFault; split <;> rfl
@[simp] theorem raiseFault_level (c : FaultCode) (s : State) : (raiseFault c s).level = s.level := by
  unfold raiseFault; split <;> rfl
@[simp] theorem raiseFault_phase (c : FaultCode) (s : State) : (raiseFault c s).phase = s.phase := by
  unfold raiseFault; split <;> rfl
@[simp] theorem raiseFault_j (c : FaultCode) (s : State) : (raiseFault c s).j = s.j := by
  unfold raiseFault; split <;> rfl
@[simp] theorem raiseFault_acc (c : FaultCode) (s : State) : (raiseFault c s).acc = s.acc := by
  unfold raiseFault; split <;> rfl
@[simp] theorem raiseFault_trace (c : FaultCode) (s : State) : (raiseFault c s).trace = s.trace := by
  unfold raiseFault; split <;> rfl
@[simp] theorem raiseFault_cfg (c : FaultCode) (s : State) : (raiseFault c s).cfg = s.cfg := by
  unfold raiseFault; split <;> rfl
@[simp] theorem raiseFault_port (c : FaultCode) (s : State) : (raiseFault c s).port = s.port := by
  unfold raiseFault; split <;> rfl
@[simp] theorem raiseFault_samples (c : FaultCode) (s : State) : (raiseFault c s).samples = s.samples := by
  unfold raiseFault; split <;> rfl
@[simp] theorem raiseFault_draws (c : FaultCode) (s : State) : (raiseFault c s).draws = s.draws := by
  unfold raiseFault; split <;> rfl
@[simp] theorem raiseFault_received (c : FaultCode) (s : State) : (raiseFault c s).received = s.received := by
  unfold raiseFault; split <;> rfl

/-! ### Per line -/

@[simp] theorem PerLine.get_set_same {α : Type} (p : PerLine α) (l : Line) (a : α) :
    (p.set l a).get l = a := by
  cases l <;> rfl

theorem PerLine.get_set_other {α : Type} (p : PerLine α) (l m : Line) (a : α) (h : m ≠ l) :
    (p.set l a).get m = p.get m := by
  cases l <;> cases m <;> first | rfl | exact absurd rfl h

@[simp] theorem PerLine.set_clk {α : Type} (p : PerLine α) (a : α) :
    p.set .clk a = { p with clk := a } := rfl
@[simp] theorem PerLine.set_sel {α : Type} (p : PerLine α) (a : α) :
    p.set .sel a = { p with sel := a } := rfl
@[simp] theorem PerLine.set_data {α : Type} (p : PerLine α) (a : α) :
    p.set .data a = { p with data := a } := rfl
@[simp] theorem Level.ofBit_false : Level.ofBit false = .low := rfl
@[simp] theorem Level.ofBit_true : Level.ofBit true = .high := rfl

end Sys2Proof.Machine
end

