-- ==== Sys2Proof/Laws/Ops.lean ====
section
/-! SUPPORT. What the shared checks can answer: cited instead of unfolded. -/

namespace Sys2Proof.Machine

theorem unlessFaulted_of_unfaulted {s : State} {k : Host.Outcome State Fault Refusal}
    (h : s.fault = .noFault) : unlessFaulted s k = k := if_pos h

theorem unlessFaulted_of_faulted {s : State} {k : Host.Outcome State Fault Refusal}
    (h : s.fault ≠ .noFault) : unlessFaulted s k = .next s := if_neg h

theorem ifConstructed_of_bound {s : State} {k : Host.Outcome State Fault Refusal}
    (h : s.bound = true) : ifConstructed s k = k := if_pos h

theorem ifConstructed_of_unbound {s : State} {k : Host.Outcome State Fault Refusal}
    (h : s.bound = false) : ifConstructed s k = .next (raiseFault .notConstructed s) := by
  simp [ifConstructed, h]

/-- A fault is precise: the state before, plus the code (R205). -/
theorem raiseFault_of_unfaulted {c : FaultCode} {s : State} (h : s.fault = .noFault) :
    raiseFault c s = { s with fault := c } := if_pos h

/-- The fault register is never overwritten (R29). -/
theorem raiseFault_of_faulted {c : FaultCode} {s : State} (h : s.fault ≠ .noFault) :
    raiseFault c s = s := if_neg h

/-- What a guarded transaction can answer. -/
theorem guarded_cases {s t : State} {k : Host.Outcome State Fault Refusal}
    (h : unlessFaulted s (ifConstructed s k) = .next t) :
    (s.fault ≠ .noFault ∧ t = s)
    ∨ (s.fault = .noFault ∧ s.bound = false ∧ t = { s with fault := .notConstructed })
    ∨ (s.fault = .noFault ∧ s.bound = true ∧ k = .next t) := by
  by_cases hf : s.fault = .noFault
  · rw [unlessFaulted_of_unfaulted hf] at h
    by_cases hb : s.bound = true
    · rw [ifConstructed_of_bound hb] at h
      exact .inr (.inr ⟨hf, hb, h⟩)
    · have hb' := Bool.eq_false_iff.mpr hb
      rw [ifConstructed_of_unbound hb', raiseFault_of_unfaulted hf] at h
      injection h with h
      exact .inr (.inl ⟨hf, hb', h.symm⟩)
  · rw [unlessFaulted_of_faulted hf] at h
    injection h with h
    exact .inl ⟨hf, h.symm⟩

end Sys2Proof.Machine
end

