-- ==== Sys2Proof/Laws/PerInstr.lean ====
section
/-! SUPPORT. Statements about every instruction as syntax, one lemma per constructor: the word that
`encode` gives an instruction has the fixed bits of its row of opcode_table.json. -/

namespace Sys2Proof.Laws.TableBits

/-- The encoded word under the row's mask is the row's match. -/
def Statement (i : Instr) : Prop := (encode i).bits &&& tableMask i = tableMatch i

/-- A fixed high field, and low bits that the mask drops. -/
theorem masked_high {m n : Nat} (a ma : BitVec m) (b : BitVec n) :
    (a ++ b).toNat &&& (ma ++ 0#n).toNat = ((a &&& ma) ++ 0#n).toNat := by
  rw [← BitVec.toNat_and, BitVec.and_append, BitVec.and_zero]

theorem init (clk sel data : LineIdent) : Statement (.init clk sel data) := by
  have h : (0b0001#4 ++ 0b0000#4 ++ clk ++ sel ++ data) &&& (0xFF#8 ++ 0#8 ++ 0#8 ++ 0#8)
      = 0x10#8 ++ 0#8 ++ 0#8 ++ 0#8 := by
    rw [BitVec.and_append, BitVec.and_append, BitVec.and_append, BitVec.and_zero, BitVec.and_zero,
      BitVec.and_zero]
    rfl
  exact (BitVec.toNat_and _ _).symm.trans (congrArg BitVec.toNat h)

theorem setf (freq : Int) : Statement (.setf freq) :=
  masked_high 0b0010#4 0xF#4 (BitVec.ofInt 28 freq)

theorem read (addr : RegAddr) : Statement (.read addr) :=
  masked_high (0b0011#4 ++ 0#24) 0xFFFFFFF#28 addr

theorem enc (freq : Int) : Statement (.enc freq) :=
  masked_high 0b0100#4 0xF#4 (BitVec.ofInt 28 freq)

theorem readc (addr : RegAddr) : Statement (.readc addr) :=
  masked_high (0b0101#4 ++ 0#24) 0xFFFFFFF#28 addr

theorem frameWrite (data : Payload) : Statement (.frameWrite data) := by
  have h : (0b0000#4 ++ data ++ 0b1#1 ++ 0b0001#4) &&& (0xF#4 ++ 0#16 ++ 0b1#1 ++ 0xF#4)
      = 0#4 ++ 0#16 ++ 0b1#1 ++ 0b0001#4 := by
    rw [BitVec.and_append, BitVec.and_append, BitVec.and_append, BitVec.and_zero]
    rfl
  exact (BitVec.toNat_and _ _).symm.trans (congrArg BitVec.toNat h)

theorem frameReadHdr (addr : RegAddr) : Statement (.frameReadHdr addr) :=
  masked_high 0b0#1 0b1#1 addr

end Sys2Proof.Laws.TableBits
end

