-- ==== Sys2Proof/Laws/Primitives.lean ====
section
/-! SUPPORT. Each primitive and each transaction as the events it plays: what it appends, the levels it
leaves, and that it changes nothing else. -/

namespace Sys2Proof.Machine

/-- Drive the lines through a list of events and append them. -/
def State.play (es : List Event) (s : State) : State :=
  { s with level := levelsAfter s.level es, trace := s.trace ++ es }

theorem levelsAfter_append (lv : PerLine Level) (es fs : List Event) :
    levelsAfter lv (es ++ fs) = levelsAfter (levelsAfter lv es) fs := by
  induction es generalizing lv with
  | nil => rfl
  | cons e es ih => exact ih _

theorem State.play_nil (s : State) : s.play [] = s := by
  simp [State.play, levelsAfter]

theorem State.play_play (s : State) (es fs : List Event) :
    (s.play es).play fs = s.play (es ++ fs) := by
  simp [State.play, levelsAfter_append]

/-! ### The primitives (40_line_primitives.md R104 to R108) -/

theorem sendBit_eq_play (b : Bool) (s : State) : sendBit b s = s.play (sendBitEvents b) := by
  simp [sendBit, lineWrite, delay, State.emit, State.play, sendBitEvents, levelsAfter, Event.applyTo]

theorem enableBegin_eq_play (s : State) : enableBegin s = s.play enableBeginEvents := by
  simp [enableBegin, lineWrite, delay, State.emit, State.play, enableBeginEvents, levelsAfter,
    Event.applyTo]

theorem enableEnd_eq_play (s : State) : enableEnd s = s.play enableEndEvents := by
  simp [enableEnd, lineWrite, delay, State.emit, State.play, enableEndEvents, levelsAfter,
    Event.applyTo]

theorem park_eq_play (s : State) : park s = s.play parkEvents := by
  simp [park, lineWrite, State.emit, State.play, parkEvents, levelsAfter, Event.applyTo]

theorem recvBit_value (s : State) : (recvBit s).1 = s.nextSample := by
  unfold recvBit
  cases h : s.cfg.samplePoint <;> simp [lineSample, lineWrite, delay, State.emit, State.nextSample]

theorem recvBit_eq_play (s : State) :
    (recvBit s).2 =
      { s.play (recvBitEvents s.cfg.samplePoint s.nextSample) with
        samples := s.samples.tail, draws := s.draws + 1 } := by
  unfold recvBit
  cases h : s.cfg.samplePoint <;>
    simp [lineSample, lineWrite, delay, State.emit, State.nextSample, State.play, recvBitEvents,
      levelsAfter, Event.applyTo]

/-! ### Fields and receive slots -/

/-- SEND_FIELD plays its bits in order and leaves `j` at the last one (R109, R27). -/
theorem sendBitsFrom_eq_play {m : Nat} (v : BitVec m) (k n : Nat) (s : State) :
    sendBitsFrom v k n s =
      { s.play ((List.range' k n).flatMap fun i => sendBitEvents (v.getLsbD i)) with
        j := if n = 0 then s.j else some (k + n - 1) } := by
  induction n generalizing k s with
  | zero => simp [sendBitsFrom, State.play_nil]
  | succ n ih =>
    rw [sendBitsFrom, ih, sendBit_eq_play, List.range'_succ]
    simp [State.play, State.atBit, levelsAfter_append]

theorem sendField_eq_play {m : Nat} (v : BitVec m) (w : Nat) (hw : 0 < w) (s : State) :
    sendField v w s =
      { s.play ((lowBits w v).flatMap sendBitEvents) with j := some (w - 1) } := by
  rw [sendField, sendBitsFrom_eq_play, lowBits, List.flatMap_map, List.range_eq_range']
  simp [Nat.ne_of_gt hw]

theorem sampleAt_zero (s : State) : s.sampleAt 0 = s.nextSample := by
  unfold State.sampleAt State.nextSample
  cases s.samples <;> simp

/-- The accumulator after n iterations that start at index r with the value a. -/
def accFrom (m : ReadMode) (smp : Nat → Bool) (r : Nat) (a : RegValue) : Nat → RegValue
  | 0 => a
  | n + 1 => accFrom m (fun i => smp (i + 1)) (r + 1) (accUpdate m r (smp 0) a) n

theorem accFrom_congr (m : ReadMode) (r : Nat) (a : RegValue) (n : Nat) (f g : Nat → Bool)
    (h : ∀ i, f i = g i) : accFrom m f r a n = accFrom m g r a n := by
  rw [funext h]

theorem accFrom_last (m : ReadMode) (smp : Nat → Bool) (r : Nat) (a : RegValue) (n : Nat) :
    accFrom m smp r a (n + 1) = accUpdate m (r + n) (smp n) (accFrom m smp r a n) := by
  induction n generalizing smp r a with
  | zero => rfl
  | succ n ih => rw [accFrom, ih, accFrom]; congr 1; omega

theorem accFrom_eq_accAfter (m : ReadMode) (s : State) (n : Nat) :
    accFrom m s.sampleAt 0 0 n = accAfter m s n := by
  induction n with
  | zero => rfl
  | succ n ih => rw [accFrom_last, ih, Nat.zero_add]; rfl

/-- One receive iteration (R161): one pulse, one sample, one update. -/
theorem receiveAt_eq_play (m : ReadMode) (r : Nat) (s : State) :
    receiveAt m r s =
      { s.play (recvBitEvents s.cfg.samplePoint (s.sampleAt 0)) with
        j := some r
        acc := some (accUpdate m r (s.sampleAt 0) (s.acc.getD 0))
        samples := s.samples.tail
        draws := s.draws + 1 } := by
  have hn : (s.atBit r).nextSample = s.nextSample := rfl
  simp only [receiveAt, recvBit_value, recvBit_eq_play, hn, sampleAt_zero]
  rfl

/-- A state whose first sample is gone presents the next one. -/
theorem sampleAt_tail {s t : State} (hs : t.samples = s.samples.tail) (hd : t.draws = s.draws + 1)
    (i : Nat) : t.sampleAt i = s.sampleAt (i + 1) := by
  unfold State.sampleAt
  rw [hs, hd]
  cases s.samples <;> simp [Nat.add_assoc, Nat.add_comm 1 i]

/-- n receive iterations: their pulses with the samples in order, and the accumulated value. -/
theorem receiveFrom_eq_play (m : ReadMode) (r n : Nat) (s : State) :
    receiveFrom m r n s =
      { s.play ((List.range n).flatMap fun i => recvBitEvents s.cfg.samplePoint (s.sampleAt i)) with
        j := if n = 0 then s.j else some (r + n - 1)
        acc := if n = 0 then s.acc else some (accFrom m s.sampleAt r (s.acc.getD 0) n)
        samples := s.samples.drop n
        draws := s.draws + n } := by
  induction n generalizing r s with
  | zero => simp [receiveFrom, State.play_nil]
  | succ n ih =>
    rw [receiveFrom, ih]
    have hs : ∀ i, (receiveAt m r s).sampleAt i = s.sampleAt (i + 1) := fun i =>
      sampleAt_tail (by rw [receiveAt_eq_play]) (by rw [receiveAt_eq_play]) i
    have hj : (if n = 0 then some r else some (r + 1 + n - 1)) = some (r + n) := by
      split <;> congr 1 <;> omega
    have hacc : (if n = 0 then some (accUpdate m r (s.sampleAt 0) (s.acc.getD 0))
        else some (accFrom m (fun i => s.sampleAt (i + 1)) (r + 1)
          (accUpdate m r (s.sampleAt 0) (s.acc.getD 0)) n))
        = some (accFrom m s.sampleAt r (s.acc.getD 0) (n + 1)) := by
      split
      · subst n; rfl
      · rfl
    rw [accFrom_congr m _ _ _ _ _ hs]
    simp only [hs]
    rw [List.range_succ_eq_map, List.flatMap_cons, List.flatMap_map, receiveAt_eq_play]
    simpa [State.play, levelsAfter_append, hj, Nat.add_assoc, Nat.add_comm 1 n] using hacc

/-! ### Levels at the ends of the transactions (R25) -/

theorem levelsAfter_sendBits (lv : PerLine Level) (bs : List Bool) (b : Bool) :
    levelsAfter lv ((bs ++ [b]).flatMap sendBitEvents) =
      { clk := .low, sel := lv.sel, data := Level.ofBit b } := by
  induction bs generalizing lv with
  | nil => cases b <;> rfl
  | cons c bs ih =>
    rw [List.cons_append, List.flatMap_cons, levelsAfter_append, ih]
    rfl

theorem levelsAfter_recvBit (lv : PerLine Level) (p : SamplePoint) (b : Bool) :
    levelsAfter lv (recvBitEvents p b) = { lv with clk := .low } := by
  cases p <;> rfl

theorem levelsAfter_recvBits (lv : PerLine Level) (p : SamplePoint) (f : Nat → Bool) (is : List Nat)
    (h : lv.clk = .low) :
    levelsAfter lv (is.flatMap fun i => recvBitEvents p (f i)) = lv := by
  have hlv : { lv with clk := .low } = lv := by rw [← h]
  induction is with
  | nil => rfl
  | cons i is ih => rw [List.flatMap_cons, levelsAfter_append, levelsAfter_recvBit, hlv, ih]

theorem levelsAfter_writeEvents (lv : PerLine Level) (reg : Payload) :
    levelsAfter lv (writeEvents reg) = PerLine.all .low := by
  rw [writeEvents, levelsAfter_append]
  rfl

theorem levelsAfter_readEvents (lv : PerLine Level) (addr : RegAddr) (s : State) :
    levelsAfter lv (readEvents addr s) = levelsAfterRead s.cfg := by
  rw [readEvents, levelsAfter_append, levelsAfter_append, levelsAfter_append, levelsAfter_append,
    readHeaderBits, levelsAfter_sendBits, levelsAfter_recvBits _ _ _ _ rfl]
  cases h : s.cfg.readParks <;> simp [levelsAfterRead, h] <;> rfl

/-! ### The transactions -/

/-- R141: everything a write transaction does. -/
theorem writeTransaction_eq (reg : Payload) (s : State) :
    writeTransaction reg s =
      { s with
        level := PerLine.all .low
        phase := .idle
        j := none
        trace := s.trace ++ writeEvents reg } := by
  rw [← levelsAfter_writeEvents s.level reg]
  have hb : lowBits 1 (1#1) = [true] := by decide
  simp [writeTransaction, sendField_eq_play, enableBegin_eq_play, enableEnd_eq_play, park_eq_play,
    State.play, State.enter, levelsAfter_append, writeEvents, writeFrameBits, hb, Phase.firstIndex]

/-- R161 and R166 up to the return: everything a read transaction does. -/
theorem readTransaction_eq (m : ReadMode) (addr : RegAddr) (s : State) :
    readTransaction m addr s =
      { s with
        level := levelsAfterRead s.cfg
        phase := .idle
        j := none
        acc := some (accAfter m s 20)
        trace := s.trace ++ readEvents addr s
        samples := s.samples.drop 20
        draws := s.draws + 20 } := by
  rw [← levelsAfter_readEvents s.level addr s, ← accFrom_eq_accAfter]
  have hb : lowBits 1 (0#1) = [false] := by decide
  cases hp : s.cfg.readParks <;>
  · simp only [readTransaction, sendField_eq_play, enableBegin_eq_play, enableEnd_eq_play,
      park_eq_play, receiveFrom_eq_play, Nat.zero_lt_succ]
    simp [State.play, State.enter, State.setAcc, levelsAfter_append, readEvents, readHeaderBits, hb, hp,
      Phase.firstIndex]
    exact ⟨rfl, rfl, rfl⟩

end Sys2Proof.Machine
end

