-- ==== Sys2Proof/Laws/Step.lean ====
section
/-! SUPPORT. What accepting and performing a request can answer, and the inversion of a step. -/

namespace Sys2Proof.Machine

theorem step_of_empty_port {s : State} (h : s.port = []) : step s = .next s := by
  simp [step, State.accept, h]

theorem step_of_request {s : State} {r : Request} {rest : List Request} (h : s.port = r :: rest) :
    step s = perform r { s with port := rest } := by
  simp [step, State.accept, h]

/-- Every meaning begins with the check of R205. -/
theorem exec_of_faulted (i : Instr) {s : State} (h : s.fault ≠ .noFault) : exec i s = .next s := by
  cases i <;> exact unlessFaulted_of_faulted h

theorem perform_of_faulted (r : Request) {s : State} (h : s.fault ≠ .noFault) :
    perform r s = .next s := unlessFaulted_of_faulted h

theorem perform_of_instr {r : Request} {s : State} {i : Instr}
    (hd : decode s.cfg.hasReadc r = .instr i) : perform r s = exec i s := by
  by_cases hf : s.fault = .noFault
  · rw [perform, unlessFaulted_of_unfaulted hf]; simp only [hd]
  · rw [perform_of_faulted r hf, exec_of_faulted i hf]

/-- Only wire-frame bits are rejected as frames that are never emitted. -/
theorem decodeCommand_ne_frame (hasReadc : Bool) (w : Word) :
    decodeCommand hasReadc w ≠ .reject .frameNeverEmitted := by
  unfold decodeCommand
  repeat' split
  all_goals simp

theorem perform_of_illegal {w : Word} {s : State} {q : Reject} (hf : s.fault = .noFault)
    (hd : decode s.cfg.hasReadc (.command w) = .reject q) :
    perform (.command w) s = .next { s with fault := .illegalCommand } := by
  rw [perform, unlessFaulted_of_unfaulted hf]
  cases q with
  | frameNeverEmitted => exact absurd hd (decodeCommand_ne_frame _ w)
  | unknownOpcode => simp [hd, raiseFault, hf]
  | reservedBits => simp [hd, raiseFault, hf]
  | readcAbsent => simp [hd, raiseFault, hf]

theorem perform_of_bad_frame {r : Request} {s : State} (hf : s.fault = .noFault)
    (hd : decode s.cfg.hasReadc r = .reject .frameNeverEmitted) :
    perform r s = .refused .frameNeverEmitted := by
  rw [perform, unlessFaulted_of_unfaulted hf]; simp only [hd]

/-- Frame bits that decode to no instruction are frames that are never emitted. -/
theorem decode_reject_cases {hasReadc : Bool} {r : Request} {q : Reject}
    (h : decode hasReadc r = .reject q) : (∃ w, r = .command w) ∨ q = .frameNeverEmitted := by
  cases r with
  | command w => exact .inl ⟨w, rfl⟩
  | writeFrame f =>
    simp only [decode, decodeWriteFrame] at h
    split at h <;> simp_all
  | readHeader f =>
    simp only [decode, decodeReadHeader] at h
    split at h <;> simp_all

/-- Everything a step that goes on can have done. -/
theorem step_cases {s t : State} (h : step s = .next t) :
    (s.port = [] ∧ t = s)
    ∨ ∃ r rest, s.port = r :: rest ∧
      ((s.fault ≠ .noFault ∧ t = { s with port := rest })
      ∨ (s.fault = .noFault
        ∧ ∃ i, decode s.cfg.hasReadc r = .instr i ∧ exec i { s with port := rest } = .next t)
      ∨ (s.fault = .noFault ∧ (∃ w q, r = .command w ∧ decode s.cfg.hasReadc r = .reject q)
        ∧ t = { s with port := rest, fault := .illegalCommand })) := by
  cases hp : s.port with
  | nil =>
    rw [step_of_empty_port hp] at h
    injection h with h
    exact .inl ⟨rfl, h.symm⟩
  | cons r rest =>
    refine .inr ⟨r, rest, rfl, ?_⟩
    rw [step_of_request hp] at h
    by_cases hf : s.fault = .noFault
    swap
    · rw [perform_of_faulted r (by exact hf)] at h
      injection h with h
      exact .inl ⟨hf, h.symm⟩
    cases hd : decode s.cfg.hasReadc r with
    | instr i =>
      rw [perform_of_instr (i := i) (by exact hd)] at h
      exact .inr (.inl ⟨hf, i, rfl, h⟩)
    | reject q =>
      obtain ⟨w, rfl⟩ | rfl := decode_reject_cases hd
      · rw [perform_of_illegal (q := q) (by exact hf) (by exact hd)] at h
        injection h with h
        exact .inr (.inr ⟨hf, ⟨w, q, rfl, rfl⟩, h.symm⟩)
      · rw [perform_of_bad_frame (by exact hf) (by exact hd)] at h
        exact absurd h (by simp)

end Sys2Proof.Machine
end

