-- ==== Sys2Proof/Tests/Slice0.lean ====
section
/-! SUPPORT. The author's own tests. Expected results are those of 95_test_vectors.md unless a comment
names another source. The last part holds, for each statement with hypotheses, a witness that meets them
together, clause by clause. -/

namespace Sys2Proof.Tests

open Sys2Proof Sys2Proof.Machine

/-! ### Helpers -/

/-- The next state, if the outcome is one. -/
def nextOf : Host.Outcome State Fault Refusal → Option State
  | .next s => some s
  | .fault _ => none
  | .refused _ => none

/-- A block after INIT 2, 3, 4 (44_construction.md R181). -/
def boundBlock : State :=
  { State.reset with
    bound := true
    lineId := { clk := some 2, sel := some 3, data := some 4 }
    lineDir := PerLine.all (some .output) }

/-- The same with a command word at the port. -/
def withCommand (w : Word) (s : State) : State := { s with port := [.command w] }

/-- The bits of 0x02817, least significant first (section 6, row 3). -/
def bitsOf2817 : List Bool :=
  [true, true, true, false, true, false, false, false, false, false,
   false, true, false, true, false, false, false, false, false, false]

/-- s_r = 1 for odd r (section 6, last row). -/
def oddSamples : List Bool := (List.range 20).map (fun r => r % 2 == 1)

def faultedBlock : State := { State.reset with fault := .notConstructed }

def noReadcBlock : State := { boundBlock with cfg := { Params.default with hasReadc := false } }

/-- What a predicate says of the next state; false where there is none. -/
def andThen (o : Host.Outcome State Fault Refusal) (p : State → Bool) : Bool :=
  match nextOf o with
  | some t => p t
  | none => false

/-! ### Well-formedness (30_encoding.md R81, R80) -/

theorem test_wellFormed_refuses_setf_above : (Instr.setf (2 ^ 27)).wellFormed true = false := by decide
theorem test_wellFormed_refuses_setf_below :
    (Instr.setf (-2 ^ 27 - 1)).wellFormed true = false := by decide
theorem test_wellFormed_refuses_enc_above : (Instr.enc (2 ^ 27)).wellFormed true = false := by decide
theorem test_wellFormed_refuses_enc_below :
    (Instr.enc (-2 ^ 27 - 1)).wellFormed true = false := by decide
theorem test_wellFormed_refuses_absent_readc : (Instr.readc 1).wellFormed false = false := by decide
theorem test_wellFormed_accepts_the_bounds :
    (Instr.setf (2 ^ 27 - 1)).wellFormed false = true ∧ (Instr.setf (-2 ^ 27)).wellFormed false = true
    ∧ (Instr.enc (2 ^ 27 - 1)).wellFormed false = true ∧ (Instr.readc 15).wellFormed true = true := by
  decide

/-! ### Decoding (section 3; the wire frames from section 5 and R73) -/

theorem test_decode_init :
    decode true (.command 0x100A0B0C#32) = .instr (.init 10 11 12) := by decide
theorem test_decode_setf :
    decode true (.command 0x27FFFFFF#32) = .instr (.setf 134217727)
    ∧ decode true (.command 0x28000000#32) = .instr (.setf (-134217728)) := by decide
theorem test_decode_read : decode true (.command 0x30000001#32) = .instr (.read 1) := by decide
theorem test_decode_enc :
    decode true (.command 0x4FFFFFFF#32) = .instr (.enc (-1)) := by decide
theorem test_decode_readc : decode true (.command 0x5000000F#32) = .instr (.readc 15) := by decide
theorem test_decode_frameWrite :
    decode true (.writeFrame 0x1F8211#25) = .instr (.frameWrite 0xFC10) := by decide
theorem test_decode_frameReadHdr :
    decode true (.readHeader 0b01010#5) = .instr (.frameReadHdr 10) := by decide
theorem test_decode_rejects :
    decode true (.command 0x11020304#32) = .reject .reservedBits
    ∧ decode true (.command 0x30000010#32) = .reject .reservedBits
    ∧ decode true (.command 0x38000001#32) = .reject .reservedBits
    ∧ decode true (.command 0x50000010#32) = .reject .reservedBits
    ∧ decode true (.command 0x00000000#32) = .reject .unknownOpcode
    ∧ decode true (.command 0x60000000#32) = .reject .unknownOpcode
    ∧ decode true (.command 0xF0000000#32) = .reject .unknownOpcode
    ∧ decode false (.command 0x50000001#32) = .reject .readcAbsent := by decide
/-- Flag 0, address 2 or padding 1 in a write frame, flag 1 in a read header (R74). -/
theorem test_decode_rejects_frames :
    decode true (.writeFrame 0x502E1#25) = .reject .frameNeverEmitted
    ∧ decode true (.writeFrame 0x502F2#25) = .reject .frameNeverEmitted
    ∧ decode true (.writeFrame 0x2502F1#25) = .reject .frameNeverEmitted
    ∧ decode true (.readHeader 0x11#5) = .reject .frameNeverEmitted := by decide
theorem test_encode_words :
    encode (.init 2 3 4) = .command 0x10020304#32 ∧ encode (.setf (-1)) = .command 0x2FFFFFFF#32
    ∧ encode (.read 15) = .command 0x3000000F#32 ∧ encode (.enc 5945) = .command 0x40001739#32
    ∧ encode (.readc 1) = .command 0x50000001#32 ∧ encode (.frameWrite 0x2984) = .writeFrame 0x53091#25
    ∧ encode (.frameReadHdr 15) = .readHeader 0x0F#5 := by decide
/-- Log 9: the table's widths, and a whole number of bytes above them. -/
theorem test_decodeTableWord :
    decodeTableWord 32 0x2000160D = some (.setf 5645)
    ∧ decodeTableWord 25 0x502F1 = some (.frameWrite 0x2817)
    ∧ decodeTableWord 32 0x0000011 = some (.frameWrite 0)
    ∧ decodeTableWord 5 0x0F = some (.frameReadHdr 15)
    ∧ decodeTableWord 8 0x00 = some (.frameReadHdr 0)
    ∧ decodeTableWord 32 0x60000000 = none := by decide

/-! ### Encoder (section 2) -/

theorem test_encode_practical :
    encodeFreq 5645 = 0x02817 ∧ encodeFreq 5646 = 0x02817 ∧ encodeFreq 5407 = 0x02680
    ∧ encodeFreq 5405 = 0x0261F ∧ encodeFreq 5345 = 0x02601 ∧ encodeFreq 5945 = 0x02A8D := by decide
theorem test_encode_floors :
    encodeFreq 478 = 0xFFF9F ∧ encodeFreq 0 = 0xFFC10 ∧ encodeFreq (-2) = 0xFFC0F
    ∧ encodeFreq 33247 = 0x10000 ∧ encodeFreq 524767 = 0
    ∧ encodeFreq 134217727 = 0xFFC10 ∧ encodeFreq (-134217728) = 0xFFC10 := by decide

/-! ### One step of each instruction (sections 3 and 5 to 7) -/

theorem test_init_binds :
    andThen (step (withCommand 0x10020304 State.reset)) (fun t => decide (t = boundBlock)) = true := by
  decide
/-- The order of the checks: bound first, then distinctness. -/
theorem test_init_faults :
    andThen (step (withCommand 0x10020302 State.reset))
        (fun t => decide (t.fault.code = 2 ∧ t.bound = false)) = true
    ∧ andThen (step (withCommand 0x10050505 boundBlock)) (fun t => decide (t.fault.code = 3)) = true := by
  decide

/-- The frame of SETF 5800 as the reference observer records it (L1-2), its 209 events, its end levels. -/
theorem test_setf_5800 :
    andThen (step (withCommand 0x200016A8 boundBlock))
      (fun t => decide (t.trace.length = 209
        ∧ t.level = PerLine.all Level.low
        ∧ risingBits (PerLine.all .unknown) t.trace =
          [.high, .low, .low, .low, .high, .low, .low, .high, .low, .low, .low, .low, .high, .high, .low,
           .low, .high, .low, .high, .low, .low, .low, .low, .low, .low])) = true := by
  decide +kernel
theorem test_setf_unbound :
    andThen (step (withCommand 0x2000160D State.reset))
      (fun t => decide (t = { State.reset with fault := .notConstructed })) = true := by decide

/-- Section 6: s_19 decides READ; 186 events; SEL stays high without parking. -/
theorem test_read_last_sample :
    andThen (exec (.read 1) { boundBlock with samples := oddSamples })
      (fun t => decide (t.received = [1] ∧ t.trace.length = 186 ∧ t.acc = none
        ∧ t.level = { clk := .low, sel := .high, data := .low })) = true := by decide +kernel
theorem test_read_parks :
    andThen (exec (.read 1) { boundBlock with
        samples := bitsOf2817, cfg := { Params.default with readParks := true } })
      (fun t => decide (t.received = [0] ∧ t.trace.length = 189
        ∧ t.level = PerLine.all Level.low)) = true := by decide +kernel
theorem test_readc_shifts :
    andThen (exec (.readc 1) { boundBlock with samples := bitsOf2817 })
        (fun t => decide (t.received = [0x02817])) = true
    ∧ andThen (exec (.readc 1) { boundBlock with
          samples := oddSamples, cfg := { Params.default with samplePoint := .afterFall } })
        (fun t => decide (t.received = [0xAAAAA] ∧ t.trace.length = 186)) = true := by decide +kernel
theorem test_readc_absent :
    andThen (step (withCommand 0x50000001 noReadcBlock)) (fun t => decide (t.fault.code = 4)) = true := by
  decide

theorem test_enc_before_init :
    andThen (step (withCommand 0x4000160D State.reset))
      (fun t => decide (t = { State.reset with received := [0x02817] })) = true := by decide

/-- SETF 5645 sends frame 0x502F1 (section 5). -/
theorem test_frameWrite_as_setf :
    andThen (exec (.frameWrite 0x2817) boundBlock) (fun t =>
      andThen (exec (.setf 5645) boundBlock) (fun u => decide (t = u))) = true := by decide +kernel
/-- The header of section 6: address bits, then flag 0, then DATA low at 20 pulses; no host value. -/
theorem test_frameReadHdr_wire :
    andThen (exec (.frameReadHdr 15) { boundBlock with samples := bitsOf2817 })
      (fun t => decide (risingBits (PerLine.all .unknown) t.trace =
          [.high, .high, .high, .high] ++ List.replicate 21 .low
        ∧ sampledBits t.trace = bitsOf2817 ∧ t.received = [])) = true := by decide +kernel

/-- Section 7: a faulted block does nothing with a command. -/
theorem test_stuck_after_fault :
    andThen (step (withCommand 0x10020304 faultedBlock)) (fun t => decide (t = faultedBlock)) = true := by
  decide
theorem test_illegal_before_notConstructed :
    andThen (step (withCommand 0x30000010 State.reset)) (fun t => decide (t.fault.code = 4)) = true := by
  decide
theorem test_withFetchWord_runs_first :
    andThen (step (State.reset.withFetchWord 32 0x10020304)) (fun t => t.bound) = true := by decide

/-- The sequencer's position after 3 ticks of a write: address bit 2 (10_state.md R27). -/
theorem test_sequencer_position :
    ((runTicks (.write 0x2817) 3 (startTransaction boundBlock)).phase,
      (runTicks (.write 0x2817) 3 (startTransaction boundBlock)).j)
      = (.transmittingAddress, some 2) := by decide

/-! ### Assembler (the programs of section 9) -/

theorem test_assemble_init :
    assembleLine ['I', 'N', 'I', 'T', ' ', '2', ',', ' ', '3', ',', ' ', '4', ' ', ';', 'x']
      = .instr (.init 2 3 4) := by decide +kernel
theorem test_assemble_setf :
    assembleRequest ['S', 'E', 'T', 'F', ' ', '5', '6', '4', '5'] = some (.command 0x2000160D)
    ∧ assembleRequest ['S', 'E', 'T', 'F', ' ', '-', '1'] = some (.command 0x2FFFFFFF) := by
  decide +kernel
/-- R86: hexadecimal operands, and operands out of range. -/
theorem test_assemble_read :
    assembleLine ['R', 'E', 'A', 'D', ' ', '0', 'x', 'F'] = .instr (.read 15)
    ∧ assembleLine ['R', 'E', 'A', 'D', 'C', ' ', '1', '6'] = .error .outOfRange := by decide +kernel

/-! ### Witnesses: a state and operands that meet the hypotheses of each statement -/

/-- For `DecodeOfEncodeIsTheInstruction`, one for each row, the frequencies at both bounds. -/
theorem test_witness_wellFormed :
    (Instr.init 0 0 0).wellFormed true = true ∧ (Instr.setf (-2 ^ 27)).wellFormed true = true
    ∧ (Instr.read 15).wellFormed true = true ∧ (Instr.enc (2 ^ 27 - 1)).wellFormed true = true
    ∧ (Instr.readc 0).wellFormed true = true ∧ (Instr.frameWrite 0xFFFF).wellFormed true = true
    ∧ (Instr.frameReadHdr 15).wellFormed true = true := by decide

/-- For `EncodeOfDecodeIsTheWord`, every kind of request. -/
theorem test_witness_decodes :
    decode false (.command 0x1000FFFF#32) = .instr (.init 0 255 255)
    ∧ decode true (.writeFrame 0x1FFFF1#25) = .instr (.frameWrite 0xFFFF)
    ∧ decode true (.readHeader 0x00#5) = .instr (.frameReadHdr 0) := by decide

/-- For `LegalWordsDecodeToTheirOperands`: each clause at a bound of its fields. -/
theorem test_witness_legal_words :
    (wordBits 0x10FF00FF#32 31 28 = 1 ∧ wordBits 0x10FF00FF#32 27 24 = 0)
    ∧ (wordBits 0x28000000#32 31 28 = 2 ∧ wordFreq 0x28000000#32 = -134217728)
    ∧ (wordBits 0x3000000F#32 31 28 = 3 ∧ wordBits 0x3000000F#32 27 4 = 0)
    ∧ (wordBits 0x47FFFFFF#32 31 28 = 4 ∧ wordFreq 0x47FFFFFF#32 = 134217727)
    ∧ (wordBits 0x50000000#32 31 28 = 5 ∧ wordBits 0x50000000#32 27 4 = 0) := by decide

/-- For the illegal-word clauses of `InitBindsThreeDistinctLinesOnce`, `ReadReturnsTheLastSample` and
`ReadcReturnsAllSamples`, at the lowest and the highest reserved bit. -/
theorem test_witness_reserved_fields :
    (wordBits 0x11000000#32 31 28 = 1 ∧ wordBits 0x11000000#32 27 24 ≠ 0)
    ∧ (wordBits 0x18000000#32 31 28 = 1 ∧ wordBits 0x18000000#32 27 24 ≠ 0)
    ∧ (wordBits 0x30000010#32 31 28 = 3 ∧ wordBits 0x30000010#32 27 4 ≠ 0)
    ∧ (wordBits 0x58000000#32 31 28 = 5 ∧ wordBits 0x58000000#32 27 4 ≠ 0) := by decide

/-- For `IllegalWordsAreExactlyThoseListed` and `IllegalWordRaisesIllegalCommand`: the opcode case of R84
at its first and last words. -/
theorem test_witness_illegal_opcodes :
    IllegalWord true 0x00000000#32 ∧ IllegalWord true 0x0FFFFFFF#32
    ∧ IllegalWord true 0x60000000#32 ∧ IllegalWord true 0xFFFFFFFF#32 :=
  ⟨.inl (by decide), .inl (by decide), .inr (.inl (by decide)), .inr (.inl (by decide))⟩
/-- The reserved-bits cases of R84, at the lowest and the highest reserved bit. -/
theorem test_witness_illegal_reserved :
    IllegalWord true 0x11000000#32 ∧ IllegalWord true 0x18020304#32 ∧ IllegalWord true 0x30000010#32
    ∧ IllegalWord true 0x38000001#32 ∧ IllegalWord true 0x50000010#32
    ∧ IllegalWord true 0x58000000#32 :=
  ⟨.inr (.inr (.inl (by decide))), .inr (.inr (.inl (by decide))), .inr (.inr (.inr (.inl (by decide)))),
    .inr (.inr (.inr (.inl (by decide)))), .inr (.inr (.inr (.inl (by decide)))),
    .inr (.inr (.inr (.inl (by decide))))⟩
theorem test_witness_illegal_absent : IllegalWord false 0x50000001#32 :=
  .inr (.inr (.inr (.inr (by decide))))
/-- Legal words beside the illegal ones. -/
theorem test_witness_legal_read : ¬ IllegalWord true 0x3000000F#32 := by unfold IllegalWord; decide
theorem test_witness_legal_init : ¬ IllegalWord true 0x10FFFFFF#32 := by unfold IllegalWord; decide

/-- For `IllegalWordRaisesIllegalCommand`: a state with such a word at its port. -/
theorem test_witness_illegal_at_port :
    (withCommand 0x60000000#32 State.reset).fault = .noFault
    ∧ (withCommand 0x60000000#32 State.reset).port = [.command 0x60000000#32]
    ∧ IllegalWord (withCommand 0x60000000#32 State.reset).cfg.hasReadc 0x60000000#32 := by
  unfold IllegalWord; decide

/-- For `StepRunsTheDecodedInstruction`, `CommandsNeverStopTheMachine` and
`EachCommandReportsTheFirstFault`. -/
theorem test_witness_step_runs :
    (withCommand 0x2000160D#32 boundBlock).port = .command 0x2000160D#32 :: []
    ∧ decode (withCommand 0x2000160D#32 boundBlock).cfg.hasReadc (.command 0x2000160D#32)
        = .instr (.setf 5645)
    ∧ (withCommand 0x2000160D#32 boundBlock).fault = .noFault := by decide

/-- For `EachCommandReportsTheFirstFault`: every code is reported by some word (section 3). -/
theorem test_witness_first_fault :
    specFault State.reset 0x10020304#32 = .noFault
    ∧ specFault State.reset 0x20000000#32 = .notConstructed
    ∧ specFault State.reset 0x50000001#32 = .notConstructed
    ∧ specFault State.reset 0x100000FF#32 = .linesNotDistinct
    ∧ specFault State.reset 0x1000FF00#32 = .linesNotDistinct
    ∧ specFault State.reset 0x10FF0000#32 = .linesNotDistinct
    ∧ specFault boundBlock 0x10050505#32 = .alreadyConstructed
    ∧ specFault boundBlock 0x1F020304#32 = .illegalCommand
    ∧ specFault noReadcBlock 0x50000001#32 = .illegalCommand
    ∧ specFault State.reset 0x30000010#32 = .illegalCommand
    ∧ specFault State.reset 0x4000160D#32 = .noFault
    ∧ specFault boundBlock 0x3000000F#32 = .noFault := by decide

/-- For `StepWaitsWithoutARequest`. -/
theorem test_witness_empty_port : boundBlock.port = [] := by decide

/-- For `StepRefusesFramesNeverEmitted`: each clause. The frame has its flag at 0, so that no payload
gives it. -/
theorem test_witness_bad_frames :
    State.reset.fault = .noFault
    ∧ ({ State.reset with port := [.writeFrame 0#25] } : State).port = .writeFrame 0#25 :: []
    ∧ (∀ d : Payload, (0#25 : WriteFrameWord) ≠ writeFrameWord d)
    ∧ ({ State.reset with port := [.readHeader 0x1F#5] } : State).port = .readHeader 0x1F#5 :: []
    ∧ (0x1F#5 : ReadHeaderWord).getLsbD 4 = true := by
  refine ⟨by decide, rfl, fun d h => ?_, rfl, by decide⟩
  have := congrArg BitVec.toNat h
  simp only [writeFrameWord, BitVec.toNat_append] at this
  exact absurd (Nat.or_eq_zero_iff.mp this.symm).2 (by decide)

/-- For `FaultsArePreciseAndFinal` and `FaultRegisterIsSticky`: a command that faults, a step that faults,
a faulted block that goes on. -/
theorem test_witness_faults :
    State.reset.fault = .noFault
    ∧ andThen (exec (.read 15) State.reset) (fun t => decide (t.fault ≠ .noFault)) = true
    ∧ andThen (step (withCommand 0xFFFFFFFF State.reset)) (fun t => decide (t.fault ≠ .noFault)) = true
    ∧ faultedBlock.fault ≠ .noFault ∧ faultedBlock.fault.code ≠ 0
    ∧ andThen (step faultedBlock) (fun t => decide (t.fault = faultedBlock.fault)) = true := by decide

/-- For `TransactionsBeforeInitRaiseNotConstructed` and `FramesBeforeInitRaiseNotConstructed`. -/
theorem test_witness_unbound :
    State.reset.fault = .noFault ∧ State.reset.bound = false ∧ State.reset.cfg.hasReadc = true := by
  decide

/-- For `InitBindsThreeDistinctLinesOnce`: the four cases, the equal pairs each alone. -/
theorem test_witness_init :
    faultedBlock.fault ≠ .noFault
    ∧ (boundBlock.fault = .noFault ∧ boundBlock.bound = true)
    ∧ (State.reset.fault = .noFault ∧ State.reset.bound = false)
    ∧ ((0 : LineIdent) ≠ 255 ∧ (0 : LineIdent) ≠ 128 ∧ (255 : LineIdent) ≠ 128)
    ∧ andThen (exec (.init 7 7 8) State.reset) (fun t => decide (t.fault.code = 2)) = true
    ∧ andThen (exec (.init 7 8 7) State.reset) (fun t => decide (t.fault.code = 2)) = true
    ∧ andThen (exec (.init 8 7 7) State.reset) (fun t => decide (t.fault.code = 2)) = true := by decide

/-- For `InitFrame`. -/
theorem test_witness_init_next : (nextOf (exec (.init 0 1 2) State.reset)).isSome = true := by decide

/-- For `BindingIsWrittenOnlyByInit`: a step of each kind, and one on a bound block. -/
theorem test_witness_binding_steps :
    andThen (step (withCommand 0x10020304 State.reset)) (fun t => t.bound) = true
    ∧ andThen (step State.reset) (fun t => !t.bound) = true
    ∧ boundBlock.bound = true ∧ (nextOf (step boundBlock)).isSome = true := by decide

/-- For the second clause of `EncoderFollowsTheFormula`, both bounds; 524767 is past it (section 2). -/
theorem test_witness_encoder_range :
    ((encodeFreq 479).toNat : Int) = specRaw 479
    ∧ ((479 : Int) ≤ 524766 ∧ (524766 : Int) ≤ 2 ^ 19 + 478 ∧ specRaw 524766 = 1048479)
    ∧ specRaw 524767 = 1048576 ∧ encodeFreq 524767 = 0 := by decide

/-- For `EncReturnsTheEncodedValue` (both cases) and `EncFrame`. -/
theorem test_witness_enc :
    faultedBlock.fault ≠ .noFault ∧ State.reset.fault = .noFault
    ∧ andThen (exec (.enc 478) State.reset) (fun t => decide (t.received = [0xFFF9F])) = true := by decide

/-- For `PayloadsCollideOnlyInPairs`: a pair at each end of the range, and two payloads that differ. -/
theorem test_witness_pairs :
    (payload 479 = payload 480 ∧ ((479 : Int) - 479) / 2 = (480 - 479) / 2)
    ∧ payload 33246 = 0xFF9F ∧ payload 33245 = 0xFF9F
    ∧ payload 5799 ≠ payload 5801 := by decide

/-- For `PayloadCarriesTheWholeValue`: the bounds of its clauses. -/
theorem test_witness_payload_bounds :
    (payload 33246).toNat = (encodeFreq 33246).toNat ∧ (encodeFreq 5345).toNat = 0x2601
    ∧ (encodeFreq 5945).toNat = 0x2A8D := by decide

/-- For `SetfSendsTheEncodedFrame`, `FrameWriteSendsItsData`, `SetfFrameOnTheWire`,
`CommandsAppendTheirEventCounts`, `DelaysBoundTheDurationBelow`, `FrameReadHeaderRunsTheReadOnTheWire`,
`ReadIsBit19OfReadc`, `ReadHeaderOnTheWire`, the last clause of `SequencerRefinesTheTransactions`, and the last cases of `ReadReturnsTheLastSample` and
`ReadcReturnsAllSamples`. -/
theorem test_witness_bound :
    boundBlock.fault = .noFault ∧ boundBlock.bound = true ∧ boundBlock.cfg.hasReadc = true := by decide

/-- For the last clause of `CommandsAppendTheirEventCounts`: INIT where it binds, where it faults, and on a
faulted block. -/
theorem test_witness_no_events :
    andThen (exec (.init 2 3 4) State.reset) (fun t => decide (t.trace = [])) = true
    ∧ andThen (exec (.init 2 2 4) State.reset) (fun t => decide (t.trace = [])) = true
    ∧ andThen (exec (.enc 0) faultedBlock) (fun t => decide (t.trace = [])) = true := by decide

/-- For the second clause of `DelaysBoundTheDurationBelow`, at its bound. -/
theorem test_witness_least_duration : leastDuration [Event.set .clk true] ≤ 0 := by
  simp [leastDuration, Event.isDly]

/-- For `SetfFrameOnBothEdges`: CLK undriven, and CLK parked. -/
theorem test_witness_clk_not_high :
    boundBlock.level.clk ≠ .high
    ∧ ({ boundBlock with level := PerLine.all .low } : State).level.clk ≠ .high := by decide

/-- For the stops of `ReadReturnsTheLastSample` and `ReadcReturnsAllSamples`. -/
theorem test_witness_read_stops :
    faultedBlock.fault ≠ .noFault
    ∧ (noReadcBlock.fault = .noFault ∧ noReadcBlock.cfg.hasReadc = false)
    ∧ (State.reset.fault = .noFault ∧ State.reset.cfg.hasReadc = true ∧ State.reset.bound = false) := by
  decide

/-- For `SetfEventsDependOnlyOnTheOperand`. -/
theorem test_witness_same_k : ((5645 : Int) - 479) / 2 = (5646 - 479) / 2 := by decide

/-- For `FirstTransactionDrivesTheLines`: an unfaulted bound block with undriven levels, and the places of
its first SETF where each line changes (section 4, end). -/
theorem test_witness_undriven :
    (boundBlock.fault = .noFault ∧ boundBlock.bound = true ∧ boundBlock.cfg.hasReadc = true
      ∧ boundBlock.level = { clk := .unknown, sel := .unknown, data := .unknown })
    ∧ andThen (exec (.setf 5645) boundBlock) (fun t => decide (
        (levelsAfter boundBlock.level (t.trace.take 1)) = { clk := .unknown, sel := .high, data := .unknown }
        ∧ (levelsAfter boundBlock.level (t.trace.take 4)).clk = .unknown
        ∧ (levelsAfter boundBlock.level (t.trace.take 5)).clk = .low
        ∧ (levelsAfter boundBlock.level (t.trace.take 6)).data = .unknown
        ∧ (levelsAfter boundBlock.level (t.trace.take 7)).data = .high)) = true := by decide +kernel

/-- For its last clause: a driven line in a step. -/
theorem test_witness_driven_step :
    ({ boundBlock with level := PerLine.all .low } : State).level.get .data ≠ .unknown
    ∧ (nextOf (step { boundBlock with level := PerLine.all .low })).isSome = true := by decide

/-- For `WriteFrameUnchanged` and `ReadFrameUnchanged`: each instruction answers a next state. -/
theorem test_witness_transactions_answer :
    (nextOf (exec (.setf 0) boundBlock)).isSome = true
    ∧ (nextOf (exec (.frameWrite 0) boundBlock)).isSome = true
    ∧ (nextOf (exec (.read 0) boundBlock)).isSome = true
    ∧ (nextOf (exec (.readc 0) boundBlock)).isSome = true
    ∧ (nextOf (exec (.frameReadHdr 0) boundBlock)).isSome = true := by decide

/-- For `SelectIsLowInsideTheFrame`: the first and the last place of each clause, in a read. -/
theorem test_witness_frame_places :
    ∃ m a, Transaction.read .latest 5 = Transaction.read m a ∧ (1 : Nat) ≤ 26 ∧ (2 : Nat) ≤ 26
      ∧ (6 : Nat) ≤ 26 := ⟨.latest, 5, rfl, by decide, by decide, by decide⟩

theorem reset_inv : State.reset.Inv where
  atRest := by decide
  binding := by decide
  levels := by decide
  lines := by decide
  fault := by decide

/-- For `EveryStepKeepsTheInvariant`, `TraceOnlyGrows` and `StepsKeepTheParameters`: a step from a state
that meets the invariant. -/
theorem test_witness_invariant_step :
    State.reset.Inv ∧ (nextOf (step State.reset)).isSome = true := ⟨reset_inv, by decide⟩

/-- For `HostCommandsEmitOnlyLegalFrames`. -/
theorem test_witness_host_only :
    (withCommand 0x2000160D#32 boundBlock).HostOnly
    ∧ (nextOf (step (withCommand 0x2000160D#32 boundBlock))).isSome = true := by decide

/-- For `AssembledLinesAreLegalCommands`: an accepted line, and the written numbers on both sides of each
range. -/
theorem test_witness_assembled :
    assembleLine ['E', 'N', 'C', ' ', '-', '1'] = .instr (.enc (-1)) := by decide +kernel
theorem test_witness_written_addresses :
    assembleLine (['R', 'E', 'A', 'D', ' '] ++ numText false 15 ++ commentText none) = .instr (.read 15)
    ∧ assembleLine (['R', 'E', 'A', 'D', ' '] ++ numText true 16 ++ commentText (some [';']))
        = .error .outOfRange := by decide +kernel
theorem test_witness_written_frequencies :
    assembleLine (['S', 'E', 'T', 'F', ' '] ++ freqText true (-134217728) ++ commentText none)
        = .instr (.setf (-134217728))
    ∧ assembleLine (['E', 'N', 'C', ' '] ++ freqText false 134217728 ++ commentText (some ['x']))
        = .error .outOfRange := by decide +kernel
theorem test_witness_written_identifiers :
    assembleLine (['I', 'N', 'I', 'T', ' '] ++ numText false 0 ++ [',', ' '] ++ numText true 255 ++ [',', ' ']
        ++ numText false 7 ++ commentText none) = .instr (.init 0 255 7)
    ∧ assembleLine (['I', 'N', 'I', 'T', ' '] ++ numText false 0 ++ [',', ' '] ++ numText true 256
        ++ [',', ' '] ++ numText false 7 ++ commentText none) = .error .outOfRange := by decide +kernel

/-- For `OperandTextsDecideTheAssembledLine`: texts that read as a number in a form of their own, as none,
and a name that is no mnemonic. -/
theorem test_witness_plain_texts :
    PlainText ['0', 'x', '0', 'F'] ∧ PlainText ['-', '7'] ∧ PlainText ['N', 'O', 'P'] := by
  simp [PlainText]
theorem test_witness_operand_texts :
    readNat ['0', 'x', '0', 'F'] = some 15 ∧ readNat ['-', '7'] = none ∧ readInt ['-', '7'] = some (-7)
    ∧ assembleLine ['N', 'O', 'P', ' ', '0'] = .error .unknownMnemonic := by decide +kernel

end Sys2Proof.Tests
end

-- Proofs of the statements about the state (10_state.md)
section
/-! PROOFS. What one instruction and one step can do, said once, and the statements about the state
(10_state.md) derived from it. -/

namespace Sys2Proof.Machine

/-! ### What the transactions leave in the fields that are not the wire's -/

@[simp] theorem writeTransaction_bound (reg : Payload) (s : State) :
    (writeTransaction reg s).bound = s.bound := by rw [writeTransaction_eq]
@[simp] theorem writeTransaction_lineId (reg : Payload) (s : State) :
    (writeTransaction reg s).lineId = s.lineId := by rw [writeTransaction_eq]
@[simp] theorem writeTransaction_lineDir (reg : Payload) (s : State) :
    (writeTransaction reg s).lineDir = s.lineDir := by rw [writeTransaction_eq]
@[simp] theorem writeTransaction_fault (reg : Payload) (s : State) :
    (writeTransaction reg s).fault = s.fault := by rw [writeTransaction_eq]
@[simp] theorem writeTransaction_trace (reg : Payload) (s : State) :
    (writeTransaction reg s).trace = s.trace ++ writeEvents reg := by rw [writeTransaction_eq]

@[simp] theorem readTransaction_bound (m : ReadMode) (a : RegAddr) (s : State) :
    (readTransaction m a s).bound = s.bound := by rw [readTransaction_eq]
@[simp] theorem readTransaction_lineId (m : ReadMode) (a : RegAddr) (s : State) :
    (readTransaction m a s).lineId = s.lineId := by rw [readTransaction_eq]
@[simp] theorem readTransaction_lineDir (m : ReadMode) (a : RegAddr) (s : State) :
    (readTransaction m a s).lineDir = s.lineDir := by rw [readTransaction_eq]
@[simp] theorem readTransaction_fault (m : ReadMode) (a : RegAddr) (s : State) :
    (readTransaction m a s).fault = s.fault := by rw [readTransaction_eq]
@[simp] theorem readTransaction_trace (m : ReadMode) (a : RegAddr) (s : State) :
    (readTransaction m a s).trace = s.trace ++ readEvents a s := by rw [readTransaction_eq]

@[simp] theorem returnAcc_bound (s : State) : (returnAcc s).bound = s.bound := rfl
@[simp] theorem returnAcc_lineId (s : State) : (returnAcc s).lineId = s.lineId := rfl
@[simp] theorem returnAcc_lineDir (s : State) : (returnAcc s).lineDir = s.lineDir := rfl
@[simp] theorem returnAcc_fault (s : State) : (returnAcc s).fault = s.fault := rfl
@[simp] theorem returnAcc_trace (s : State) : (returnAcc s).trace = s.trace := rfl

/-! ### What an instruction can do -/

/-- When a meaning raises the code: R201 and R202 unbound, R203 bound, and R204 in either case. -/
def FaultCode.RaisedWhen (bound : Bool) : FaultCode → Prop
  | .noFault => False
  | .notConstructed => bound = false
  | .linesNotDistinct => bound = false
  | .alreadyConstructed => bound = true
  | .illegalCommand => True

/-- Every next state that an instruction can answer from s, with the guard of each. -/
inductive Effect (s : State) : Instr → State → Prop
  | faulted (i : Instr) (hf : s.fault ≠ .noFault) : Effect s i s
  | raises (i : Instr) (c : FaultCode) (hf : s.fault = .noFault) (hc : c.RaisedWhen s.bound) :
      Effect s i (raiseFault c s)
  | binds (c e d : LineIdent) (hf : s.fault = .noFault) (hb : s.bound = false)
      (hce : c ≠ e) (hcd : c ≠ d) (hed : e ≠ d) : Effect s (.init c e d) (bindLines c e d s)
  | encodes (f : Int) (hf : s.fault = .noFault) : Effect s (.enc f) (s.handToHost (encodeFreq f))
  | setf (f : Int) (hf : s.fault = .noFault) (hb : s.bound = true) :
      Effect s (.setf f) (writeTransaction (payload f) s)
  | frameWrite (reg : Payload) (hf : s.fault = .noFault) (hb : s.bound = true) :
      Effect s (.frameWrite reg) (writeTransaction reg s)
  | read (a : RegAddr) (hf : s.fault = .noFault) (hb : s.bound = true) :
      Effect s (.read a) (returnAcc (readTransaction .latest a s))
  | readc (a : RegAddr) (hf : s.fault = .noFault) (hb : s.bound = true)
      (hr : s.cfg.hasReadc = true) : Effect s (.readc a) (returnAcc (readTransaction .shifted a s))
  | frameReadHdr (a : RegAddr) (hf : s.fault = .noFault) (hb : s.bound = true) :
      Effect s (.frameReadHdr a) (readTransaction .latest a s).dropAcc

theorem Effect.of_next {i : Instr} {s t u : State} (hu : Effect s i u)
    (h : (.next u : Host.Outcome State Fault Refusal) = .next t) : Effect s i t := by
  injection h with h
  exact h ▸ hu

/-- The two checks that the transactions share answer as `Effect` says, whatever the transaction. -/
theorem effect_of_guarded {i : Instr} {s t u : State}
    (hrun : s.fault = .noFault → s.bound = true → Effect s i u)
    (h : unlessFaulted s (ifConstructed s (.next u)) = .next t) : Effect s i t := by
  obtain ⟨hf, rfl⟩ | ⟨hf, hb, rfl⟩ | ⟨hf, hb, hk⟩ := guarded_cases h
  · exact .faulted i hf
  · rw [← raiseFault_of_unfaulted hf]
    exact .raises i .notConstructed hf hb
  · exact (hrun hf hb).of_next hk

theorem effect_of_execInit {c e d : LineIdent} {s t : State} (hf : s.fault = .noFault)
    (h : execInit c e d s = .next t) : Effect s (.init c e d) t := by
  rw [execInit, unlessFaulted_of_unfaulted hf] at h
  split at h
  next hb =>
    exact Effect.of_next (.raises _ .alreadyConstructed hf hb) h
  next hb =>
    have hb' := Bool.eq_false_iff.mpr hb
    split at h
    next =>
      exact Effect.of_next (.raises _ .linesNotDistinct hf hb') h
    next hdist =>
      obtain ⟨hce, hcd, hed⟩ : c ≠ e ∧ c ≠ d ∧ e ≠ d := by simpa using hdist
      exact Effect.of_next (.binds c e d hf hb' hce hcd hed) h

theorem effect_of_execReadc {a : RegAddr} {s t : State} (hf : s.fault = .noFault)
    (h : execReadc a s = .next t) : Effect s (.readc a) t := by
  rw [execReadc] at h
  split at h
  next hr => exact effect_of_guarded (fun hf hb => .readc a hf hb hr) h
  next =>
    rw [unlessFaulted_of_unfaulted hf] at h
    exact Effect.of_next (.raises _ .illegalCommand hf trivial) h

/-- The inversion of `exec`. -/
theorem effect_of_exec {i : Instr} {s t : State} (h : exec i s = .next t) : Effect s i t := by
  by_cases hf : s.fault = .noFault
  swap
  · rw [exec_of_faulted i hf] at h
    exact Effect.of_next (.faulted i hf) h
  cases i with
  | init c e d => exact effect_of_execInit hf h
  | setf f => exact effect_of_guarded (.setf f) h
  | read a => exact effect_of_guarded (.read a) h
  | enc f =>
    have h : unlessFaulted s (.next (s.handToHost (encodeFreq f))) = .next t := h
    rw [unlessFaulted_of_unfaulted hf] at h
    exact Effect.of_next (.encodes f hf) h
  | readc a => exact effect_of_execReadc hf h
  | frameWrite reg => exact effect_of_guarded (.frameWrite reg) h
  | frameReadHdr a => exact effect_of_guarded (.frameReadHdr a) h

namespace Effect

variable {i : Instr} {s t : State}

/-- Only raising a fault writes the fault register (R29). -/
theorem fault_cases (h : Effect s i t) :
    t.fault = s.fault ∨ (s.fault = .noFault ∧ ∃ c, t = raiseFault c s) := by
  cases h with
  | raises _ c hf => exact .inr ⟨hf, c, rfl⟩
  | faulted | binds | encodes | setf | frameWrite | read | readc | frameReadHdr =>
    exact .inl (by simp)

/-- Only INIT of an unbound block writes the binding and the directions (R21, R23). -/
theorem binding_cases (h : Effect s i t) :
    (t.bound = s.bound ∧ t.lineId = s.lineId ∧ t.lineDir = s.lineDir)
    ∨ (s.bound = false ∧ ∃ c e d, i = .init c e d ∧ c ≠ e ∧ c ≠ d ∧ e ≠ d
      ∧ t = bindLines c e d s) := by
  cases h with
  | binds c e d _ hb hce hcd hed => exact .inr ⟨hb, c, e, d, rfl, hce, hcd, hed, rfl⟩
  | faulted | raises | encodes | setf | frameWrite | read | readc | frameReadHdr =>
    exact .inl (by simp)

/-- No instruction removes from the trace (R34). -/
theorem trace_grows (h : Effect s i t) : s.trace <+: t.trace := by
  cases h with
  | faulted | raises | binds | encodes | setf | frameWrite | read | readc | frameReadHdr => simp

end Effect

/-! ### What a step can do -/

/-- The state once the oldest request, if there is one, is taken from the port. -/
def State.withoutRequest (s : State) : State := { s with port := s.port.tail }

theorem State.withoutRequest_of_empty_port {s : State} (hp : s.port = []) : s.withoutRequest = s := by
  cases s
  subst hp
  rfl

/-- The inversion of `step`: the request has no effect, is an illegal word, or is an instruction that
runs. -/
theorem step_effect {s t : State} (h : step s = .next t) :
    t = s.withoutRequest
    ∨ (s.fault = .noFault ∧ t = raiseFault .illegalCommand s.withoutRequest)
    ∨ ∃ r rest i, s.port = r :: rest ∧ decode s.cfg.hasReadc r = .instr i
      ∧ Effect s.withoutRequest i t := by
  obtain ⟨hp, rfl⟩ | ⟨r, rest, hp, hcase⟩ := step_cases h
  · exact .inl (State.withoutRequest_of_empty_port hp).symm
  have hs : { s with port := rest } = s.withoutRequest := by simp [State.withoutRequest, hp]
  obtain ⟨-, rfl⟩ | ⟨-, i, hd, he⟩ | ⟨hf, -, rfl⟩ := hcase
  · exact .inl hs
  · exact .inr (.inr ⟨r, rest, i, hp, hd, hs ▸ effect_of_exec he⟩)
  · exact .inr (.inl ⟨hf, by rw [← hs, raiseFault_of_unfaulted (by exact hf)]⟩)

/-- R29, one step: the register is left, or a fault is raised where it holds 0. -/
theorem step_fault_cases {s t : State} (h : step s = .next t) :
    t.fault = s.fault ∨ (s.fault = .noFault ∧ ∃ c, t = raiseFault c s.withoutRequest) := by
  obtain rfl | ⟨hf, ht⟩ | ⟨_, _, _, _, _, he⟩ := step_effect h
  · exact .inl rfl
  · exact .inr ⟨hf, _, ht⟩
  · exact he.fault_cases

/-- R21 and R23, one step: the binding is left, or the request is an INIT that binds. -/
theorem step_binding_cases {s t : State} (h : step s = .next t) :
    (t.bound = s.bound ∧ t.lineId = s.lineId ∧ t.lineDir = s.lineDir)
    ∨ (s.bound = false ∧ ∃ r rest c e d, s.port = r :: rest
      ∧ decode s.cfg.hasReadc r = .instr (.init c e d) ∧ c ≠ e ∧ c ≠ d ∧ e ≠ d
      ∧ t = bindLines c e d s.withoutRequest) := by
  obtain rfl | ⟨-, rfl⟩ | ⟨r, rest, i, hp, hd, he⟩ := step_effect h
  · exact .inl ⟨rfl, rfl, rfl⟩
  · exact .inl (by simp [State.withoutRequest])
  · obtain hkeep | ⟨hb, c, e, d, rfl, hce, hcd, hed, ht⟩ := he.binding_cases
    · exact .inl hkeep
    · exact .inr ⟨hb, r, rest, c, e, d, hp, hd, hce, hcd, hed, ht⟩

/-- R34, one step. -/
theorem step_trace_grows {s t : State} (h : step s = .next t) : s.trace <+: t.trace := by
  obtain rfl | ⟨-, rfl⟩ | ⟨_, _, _, _, _, he⟩ := step_effect h
  · exact ⟨[], List.append_nil _⟩
  · simp [State.withoutRequest]
  · exact he.trace_grows

theorem FaultCode.code_eq_zero {c : FaultCode} : c.code = 0 ↔ c = .noFault := by
  cases c <;> simp [FaultCode.code]

/-! ### The positions of the sequencer (R26, R27) -/

/-- Where the sequencer stands. -/
def State.position (s : State) : Phase × Option Nat := (s.phase, s.j)

/-- The phases in which a tick of the transaction runs a primitive. -/
def Transaction.runsIn (x : Transaction) : Phase → Bool
  | .idle => false
  | .transmittingData => x.flag
  | .receivingData => !x.flag
  | _ => true

/-- The first position of a phase. -/
def Phase.entry (p : Phase) : Phase × Option Nat := (p, p.firstIndex)

/-- The position after the one given: within a field the next index, past it the next phase of R184. -/
def Transaction.nextPosition (x : Transaction) (p : Phase × Option Nat) : Phase × Option Nat :=
  if x.runsIn p.1 then
    if p.2.getD 0 + 1 < p.1.fieldLength then (p.1, some (p.2.getD 0 + 1)) else (x.nextPhase p.1).entry
  else p

section

variable {x : Transaction} {p : Phase} {j : Option Nat}

theorem nextPosition_within (hr : x.runsIn p = true) (hj : j.getD 0 + 1 < p.fieldLength) :
    x.nextPosition (p, j) = (p, some (j.getD 0 + 1)) := by
  simp [Transaction.nextPosition, hr, hj]

theorem nextPosition_past (hr : x.runsIn p = true) (hj : ¬ j.getD 0 + 1 < p.fieldLength) :
    x.nextPosition (p, j) = (x.nextPhase p).entry := by
  simp [Transaction.nextPosition, hr, hj]

theorem nextPosition_stopped (hr : x.runsIn p = false) : x.nextPosition (p, j) = (p, j) := by
  simp [Transaction.nextPosition, hr]

end

theorem enterPhase_position (p : Phase) (s : State) :
    (enterPhase p s).position = p.entry := by
  unfold enterPhase
  split <;> rfl

/-- Advancing from a state at the place of s, its index written out or not, takes the next position. -/
theorem advance_position (x : Transaction) {s s' : State} (hr : x.runsIn s.phase = true)
    (hp : s'.phase = s.phase) (hj : s'.j.getD 0 = s.j.getD 0) :
    (advance x s').position = x.nextPosition s.position := by
  unfold advance
  rw [hp, hj]
  split
  next hlt => exact (congrArg (·, _) hp).trans (nextPosition_within hr hlt).symm
  next hge => exact (enterPhase_position _ _).trans (nextPosition_past hr hge).symm

/-! Inside a tick the primitives leave the position, but for the receive iteration writing its index. -/

theorem sendBit_phase (b : Bool) (s : State) : (sendBit b s).phase = s.phase := by
  rw [sendBit_eq_play]; rfl

theorem sendBit_j (b : Bool) (s : State) : (sendBit b s).j = s.j := by
  rw [sendBit_eq_play]; rfl

theorem closeTransaction_phase (x : Transaction) (s : State) :
    (closeTransaction x s).phase = s.phase := by
  unfold closeTransaction
  split
  · rfl
  · split <;> rfl

theorem closeTransaction_j (x : Transaction) (s : State) : (closeTransaction x s).j = s.j := by
  unfold closeTransaction
  split
  · rfl
  · split <;> rfl

theorem receiveAt_phase (m : ReadMode) (r : Nat) (s : State) : (receiveAt m r s).phase = s.phase := by
  rw [receiveAt_eq_play]; rfl

theorem receiveAt_j (m : ReadMode) (r : Nat) (s : State) : (receiveAt m r s).j = some r := by
  rw [receiveAt_eq_play]

theorem advance_sendBit_position (x : Transaction) (b : Bool) {s : State}
    (hr : x.runsIn s.phase = true) :
    (advance x (sendBit b s)).position = x.nextPosition s.position :=
  advance_position x hr (sendBit_phase b s) (by rw [sendBit_j])

/-- R27: a tick moves the sequencer by one position, whatever the rest of the state is. -/
theorem tick_position (x : Transaction) (s : State) :
    (tick x s).position = x.nextPosition s.position := by
  unfold tick
  cases hp : s.phase with
  | idle => exact (nextPosition_stopped (congrArg x.runsIn hp)).symm
  | enableAsserting => exact advance_position x (congrArg x.runsIn hp) rfl rfl
  | transmittingAddress => exact advance_sendBit_position x _ (congrArg x.runsIn hp)
  | transmittingRWFlag => exact advance_sendBit_position x _ (congrArg x.runsIn hp)
  | transmittingData =>
    cases x with
    | write reg => exact advance_sendBit_position _ _ (congrArg _ hp)
    | read m a => exact (nextPosition_stopped (congrArg _ hp)).symm
  | receivingData =>
    cases x with
    | write reg => exact (nextPosition_stopped (congrArg _ hp)).symm
    | read m a =>
      exact advance_position _ (congrArg _ hp) (receiveAt_phase m _ s) (by rw [receiveAt_j]; rfl)
  | transmittingPadding => exact advance_sendBit_position x _ (congrArg x.runsIn hp)
  | enableDeasserting =>
    exact advance_position x (congrArg x.runsIn hp) (closeTransaction_phase x s)
      (by rw [closeTransaction_j])

theorem runTicks_position (x : Transaction) (n : Nat) (s : State) :
    (runTicks x n s).position = x.nextPosition^[n] s.position := by
  induction n generalizing s with
  | zero => rfl
  | succ n ih => rw [runTicks, ih, tick_position, Function.iterate_succ_apply]

/-- The positions of the first k ticks, as the sequencer alone counts them. -/
theorem positions_eq_iterate (x : Transaction) (k : Nat) (s : State) :
    (List.range k).map (fun n => (runTicks x n (startTransaction s)).position)
      = List.iterate x.nextPosition Phase.enableAsserting.entry k := by
  rw [← List.range_map_iterate]
  exact List.map_congr_left fun n _ => runTicks_position x n (startTransaction s)

section

variable {x : Transaction} {p q : Phase}

/-- R27: from index k a field of n + 1 more bits is counted to its end, and then the phase advances. -/
theorem iterate_from_index (hr : x.runsIn p = true) (hq : x.nextPhase p = q) (m n k : Nat)
    (hn : k + (n + 1) = p.fieldLength) :
    List.iterate x.nextPosition (p, some k) (n + 1 + m)
      = (List.range' k (n + 1)).map (fun i => (p, some i))
        ++ List.iterate x.nextPosition q.entry m := by
  induction n generalizing k with
  | zero =>
    rw [Nat.add_comm, List.iterate, nextPosition_past hr (by simp; omega), hq]
    rfl
  | succ n ih =>
    rw [Nat.add_right_comm, List.iterate, nextPosition_within hr (by simp; omega), Option.getD_some,
      ih (k + 1) (by omega)]
    rfl

/-- R27: a phase that counts bits is passed through from index 0 to its last. -/
theorem iterate_field (hr : x.runsIn p = true) (hq : x.nextPhase p = q) (n m : Nat)
    (hj : p.firstIndex = some 0) (hn : p.fieldLength = n + 1) :
    List.iterate x.nextPosition p.entry (n + 1 + m)
      = (List.range (n + 1)).map (fun i => (p, some i)) ++ List.iterate x.nextPosition q.entry m := by
  rw [Phase.entry, hj, iterate_from_index hr hq m n 0 (by omega), List.range_eq_range']

end

/-- The positions that every transaction begins with. -/
theorem iterate_header (x : Transaction) (m : Nat) :
    List.iterate x.nextPosition Phase.enableAsserting.entry (6 + m)
      = [(Phase.enableAsserting, none)]
        ++ (List.range 4).map (fun k => (Phase.transmittingAddress, some k))
        ++ [(Phase.transmittingRWFlag, some 0)]
        ++ List.iterate x.nextPosition (x.nextPhase .transmittingRWFlag).entry m := by
  have hstart : x.nextPosition Phase.enableAsserting.entry = Phase.transmittingAddress.entry := rfl
  rw [show 6 + m = 3 + 1 + (0 + 1 + m) + 1 by omega, List.iterate, hstart,
    iterate_field (q := .transmittingRWFlag) rfl rfl 3 _ rfl rfl, iterate_field rfl rfl 0 m rfl rfl]
  rfl

/-- The positions that every transaction ends with. -/
theorem iterate_closing (x : Transaction) :
    List.iterate x.nextPosition Phase.enableDeasserting.entry 2
      = [(Phase.enableDeasserting, none), (Phase.idle, none)] := rfl

theorem write_positions (reg : Payload) :
    List.iterate (Transaction.write reg).nextPosition Phase.enableAsserting.entry 28
      = [(Phase.enableAsserting, none)]
        ++ (List.range 4).map (fun k => (Phase.transmittingAddress, some k))
        ++ [(Phase.transmittingRWFlag, some 0)]
        ++ (List.range 16).map (fun k => (Phase.transmittingData, some k))
        ++ (List.range 4).map (fun k => (Phase.transmittingPadding, some k))
        ++ [(Phase.enableDeasserting, none), (Phase.idle, none)] := by
  have hdata := iterate_field (x := .write reg) (p := .transmittingData) (q := .transmittingPadding)
    rfl rfl 15 6 rfl rfl
  have hpadding := iterate_field (x := .write reg) (p := .transmittingPadding)
    (q := .enableDeasserting) rfl rfl 3 2 rfl rfl
  rw [iterate_closing] at hpadding
  rw [iterate_header _ 22]
  simp only [List.append_assoc]
  exact congrArg _ (congrArg _ (congrArg _ (hdata.trans (congrArg _ hpadding))))

theorem read_positions (m : ReadMode) (a : RegAddr) :
    List.iterate (Transaction.read m a).nextPosition Phase.enableAsserting.entry 28
      = [(Phase.enableAsserting, none)]
        ++ (List.range 4).map (fun k => (Phase.transmittingAddress, some k))
        ++ [(Phase.transmittingRWFlag, some 0)]
        ++ (List.range 20).map (fun k => (Phase.receivingData, some k))
        ++ [(Phase.enableDeasserting, none), (Phase.idle, none)] := by
  have hreceive := iterate_field (x := .read m a) (p := .receivingData) (q := .enableDeasserting)
    rfl rfl 19 2 rfl rfl
  rw [iterate_closing] at hreceive
  rw [iterate_header _ 22, List.append_assoc _ (List.map _ (List.range 20))]
  exact congrArg _ hreceive

/-! ### The obligations -/

/-- Settles O12: every way to write the register goes through `raiseFault`. -/
theorem faultRegisterIsSticky : Obligations.FaultRegisterIsSticky := by
  refine ⟨rfl, ⟨rfl, rfl, rfl, rfl, rfl⟩, fun s t h => ?_, fun s t h hne => ?_⟩
  · exact (step_fault_cases h).imp_right fun ⟨hf, hc⟩ => ⟨FaultCode.code_eq_zero.mpr hf, hc⟩
  · obtain hkeep | ⟨hf, -⟩ := step_fault_cases h
    · exact hkeep
    · exact absurd (FaultCode.code_eq_zero.mpr hf) hne

/-- Settles O18: the one effect that writes the binding is guarded by `bound = 0`. -/
theorem bindingIsWrittenOnlyByInit : Obligations.BindingIsWrittenOnlyByInit := by
  refine ⟨rfl, rfl, rfl, fun s t h => ?_, fun s t h hb => ?_⟩
  · obtain hkeep | ⟨hb, r, rest, c, e, d, hp, hd, hce, hcd, hed, rfl⟩ := step_binding_cases h
    · exact .inl hkeep
    · exact .inr ⟨hb, rfl, rfl, r, rest, c, e, d, hp, hd, hce, hcd, hed, rfl⟩
  · obtain ⟨hbound, hid, hdir⟩ | ⟨hunbound, -⟩ := step_binding_cases h
    · exact ⟨hbound.trans hb, hid, hdir⟩
    · exact absurd (hb.symm.trans hunbound) (by decide)

/-- Settles O47: the positions are a run of `nextPosition`, which no other field enters. -/
theorem sequencerVisitsItsPositions : Obligations.SequencerVisitsItsPositions :=
  ⟨fun reg s => (positions_eq_iterate (.write reg) 28 s).trans (write_positions reg),
    fun m a s => (positions_eq_iterate (.read m a) 28 s).trans (read_positions m a)⟩

/-- Settles O53: every effect appends. -/
theorem traceOnlyGrows : Obligations.TraceOnlyGrows :=
  ⟨rfl, fun _ _ _ => rfl, fun _ => rfl, fun _ => rfl, fun _ _ => step_trace_grows⟩

/-- Settles O50: `State.reset` field by field. -/
theorem powerUpState : Obligations.PowerUpState :=
  ⟨rfl, rfl, rfl, rfl, rfl, rfl, rfl, rfl, rfl⟩

end Sys2Proof.Machine
end

-- Proofs of the statements about the encoding (30_encoding.md)
section
/-! PROOFS. The fields of a command word as numbers, the decoder by opcode, and what a wire observer
records of a write frame; from these the statements about the encoding (30_encoding.md). -/

namespace Sys2Proof.Machine

/-! ### The fields of a command word as numbers (R75 to R81) -/

theorem toNat_extractLsb'_eq_wordBits (w : Word) (hi lo : Nat) :
    (w.extractLsb' lo (hi + 1 - lo)).toNat = wordBits w hi lo := by
  rw [BitVec.extractLsb'_toNat, Nat.shiftRight_eq_div_pow, wordBits]

@[simp] theorem clkField_toNat (w : Word) : (clkField w).toNat = wordBits w 23 16 :=
  toNat_extractLsb'_eq_wordBits w 23 16

@[simp] theorem selField_toNat (w : Word) : (selField w).toNat = wordBits w 15 8 :=
  toNat_extractLsb'_eq_wordBits w 15 8

@[simp] theorem dataField_toNat (w : Word) : (dataField w).toNat = wordBits w 7 0 :=
  toNat_extractLsb'_eq_wordBits w 7 0

@[simp] theorem addrField_toNat (w : Word) : (addrField w).toNat = wordBits w 3 0 :=
  toNat_extractLsb'_eq_wordBits w 3 0

theorem opcodeField_eq_iff (w : Word) (c : BitVec 4) :
    opcodeField w = c ↔ wordBits w 31 28 = c.toNat := by
  rw [← toNat_extractLsb'_eq_wordBits w 31 28]
  exact BitVec.toNat_inj.symm

theorem initReservedField_eq_zero_iff (w : Word) :
    initReservedField w = 0#4 ↔ wordBits w 27 24 = 0 := by
  rw [← toNat_extractLsb'_eq_wordBits w 27 24]
  exact BitVec.toNat_inj.symm

theorem readReservedField_eq_zero_iff (w : Word) :
    readReservedField w = 0#24 ↔ wordBits w 27 4 = 0 := by
  rw [← toNat_extractLsb'_eq_wordBits w 27 4]
  exact BitVec.toNat_inj.symm

/-- R81: the sign extension of bits [27:0] is their two's-complement number. -/
theorem freqField_eq_wordFreq (w : Word) : freqField w = wordFreq w := by
  have hbits : (w.extractLsb' 0 28).toNat = wordBits w 27 0 := toNat_extractLsb'_eq_wordBits w 27 0
  rw [freqField, BitVec.toInt_eq_toNat_cond, hbits, wordFreq]
  split <;> split <;> omega

/-! ### The decoder, opcode by opcode (R83) -/

/-- The opcodes that R83 tells apart. -/
theorem opcode_cases (w : Word) :
    wordBits w 31 28 = 1 ∨ wordBits w 31 28 = 2 ∨ wordBits w 31 28 = 3 ∨ wordBits w 31 28 = 4
    ∨ wordBits w 31 28 = 5 ∨ (wordBits w 31 28 = 0 ∨ 6 ≤ wordBits w 31 28) := by
  omega

section

variable (hasReadc : Bool) {w : Word}

theorem decode_opcode_init (h : wordBits w 31 28 = 1) :
    decode hasReadc (.command w) = if wordBits w 27 24 = 0
      then .instr (.init (clkField w) (selField w) (dataField w)) else .reject .reservedBits := by
  simp [decode, decodeCommand, opcodeField_eq_iff, initReservedField_eq_zero_iff, h]

theorem decode_opcode_setf (h : wordBits w 31 28 = 2) :
    decode hasReadc (.command w) = .instr (.setf (wordFreq w)) := by
  simp [decode, decodeCommand, opcodeField_eq_iff, freqField_eq_wordFreq, h]

theorem decode_opcode_read (h : wordBits w 31 28 = 3) :
    decode hasReadc (.command w) = if wordBits w 27 4 = 0
      then .instr (.read (addrField w)) else .reject .reservedBits := by
  simp [decode, decodeCommand, opcodeField_eq_iff, readReservedField_eq_zero_iff, h]

theorem decode_opcode_enc (h : wordBits w 31 28 = 4) :
    decode hasReadc (.command w) = .instr (.enc (wordFreq w)) := by
  simp [decode, decodeCommand, opcodeField_eq_iff, freqField_eq_wordFreq, h]

theorem decode_opcode_readc_present (h : wordBits w 31 28 = 5) :
    decode true (.command w) = if wordBits w 27 4 = 0
      then .instr (.readc (addrField w)) else .reject .reservedBits := by
  simp [decode, decodeCommand, opcodeField_eq_iff, readReservedField_eq_zero_iff, h]

theorem decode_opcode_readc_absent (h : wordBits w 31 28 = 5) :
    decode false (.command w) = .reject .readcAbsent := by
  simp [decode, decodeCommand, opcodeField_eq_iff, h]

theorem decode_opcode_other (h : wordBits w 31 28 = 0 ∨ 6 ≤ wordBits w 31 28) :
    decode hasReadc (.command w) = .reject .unknownOpcode := by
  obtain ⟨h1, h2, h3, h4, h5⟩ : wordBits w 31 28 ≠ 1 ∧ wordBits w 31 28 ≠ 2 ∧ wordBits w 31 28 ≠ 3
      ∧ wordBits w 31 28 ≠ 4 ∧ wordBits w 31 28 ≠ 5 := by omega
  simp [decode, decodeCommand, opcodeField_eq_iff, h1, h2, h3, h4, h5]

end

/-- A format with reserved bits rejects exactly where they are not all 0. -/
theorem rejects_ite_iff {p : Prop} [Decidable p] {i : Instr} {q : Reject} :
    (∃ r, (if p then Decoded.instr i else .reject q) = .reject r) ↔ ¬ p := by
  split
  next hp => simp [hp]
  next hp => simp [hp]

/-- R84: the words that decode to no command. -/
theorem decode_rejects_iff (hasReadc : Bool) (w : Word) :
    (∃ r, decode hasReadc (.command w) = .reject r) ↔ IllegalWord hasReadc w := by
  unfold IllegalWord
  obtain h | h | h | h | h | h := opcode_cases w
  · rw [decode_opcode_init hasReadc h, rejects_ite_iff]
    omega
  · simp [decode_opcode_setf hasReadc h, h]
  · rw [decode_opcode_read hasReadc h, rejects_ite_iff]
    omega
  · simp [decode_opcode_enc hasReadc h, h]
  · cases hasReadc with
    | false => simp [decode_opcode_readc_absent h, h]
    | true =>
      rw [decode_opcode_readc_present h, rejects_ite_iff]
      simp [h]
  · rw [decode_opcode_other hasReadc h]
    exact iff_of_true ⟨_, rfl⟩ (h.imp_right .inl)

/-! ### What a wire observer records (92_eei_decisions.md D26) -/

theorem risingBits_append (lv : PerLine Level) (es fs : List Event) :
    risingBits lv (es ++ fs) = risingBits lv es ++ risingBits (levelsAfter lv es) fs := by
  induction es generalizing lv with
  | nil => rfl
  | cons e es ih =>
    rw [List.cons_append, risingBits, risingBits, levelsAfter, ih]
    split <;> rfl

theorem risingBits_of_no_rise {es : List Event} (h : Event.set .clk true ∉ es) (lv : PerLine Level) :
    risingBits lv es = [] := by
  induction es generalizing lv with
  | nil => rfl
  | cons e es ih =>
    have he : .set .clk true ≠ e := List.ne_of_not_mem_cons h
    rw [risingBits, if_neg fun ⟨hrise, _⟩ => he hrise.symm, ih (List.not_mem_of_not_mem_cons h)]

/-- R104: inside the brackets a SEND_BIT shows the observer its bit. -/
theorem risingBits_sendBit {lv : PerLine Level} (hsel : lv.sel = .low) (b : Bool) :
    risingBits lv (sendBitEvents b) = [Level.ofBit b] := by
  simp [sendBitEvents, risingBits, Event.applyTo, hsel]

theorem levelsAfter_sendBit_sel (lv : PerLine Level) (b : Bool) :
    (levelsAfter lv (sendBitEvents b)).sel = lv.sel := rfl

theorem risingBits_sendBits {lv : PerLine Level} (hsel : lv.sel = .low) (bs : List Bool) :
    risingBits lv (bs.flatMap sendBitEvents) = bs.map Level.ofBit := by
  induction bs generalizing lv with
  | nil => rfl
  | cons b bs ih =>
    rw [List.flatMap_cons, risingBits_append, risingBits_sendBit hsel,
      ih ((levelsAfter_sendBit_sel lv b).trans hsel)]
    rfl

/-- R71: a write frame shows the observer its 25 bits, and its brackets and PARK show nothing. -/
theorem risingBits_writeEvents (lv : PerLine Level) (reg : Payload) :
    risingBits lv (writeEvents reg) = (writeFrameBits reg).map Level.ofBit := by
  have hsel : (levelsAfter lv enableBeginEvents).sel = .low := rfl
  rw [writeEvents, List.append_assoc, List.append_assoc, risingBits_append,
    risingBits_of_no_rise (es := enableBeginEvents) (by decide), risingBits_append,
    risingBits_sendBits hsel,
    risingBits_of_no_rise (es := enableEndEvents ++ parkEvents) (by decide)]
  simp

/-! ### The bits of a write frame by their index (R71) -/

theorem writeFrameBits_eq_specFrameBits (reg : Payload) :
    writeFrameBits reg = (List.range 25).map (specFrameBit reg.getLsbD) := rfl

/-- Of the register value a frame carries only the 16 low bits. -/
theorem specFrameBit_congr {p q : Nat → Bool} (h : ∀ i < 16, p i = q i) :
    specFrameBit p = specFrameBit q := by
  funext t
  unfold specFrameBit
  split
  · rfl
  split
  · rfl
  split
  · exact h (t - 5) (by omega)
  · rfl

/-- R130: the payload is the 16 low bits of the encoder's value. -/
theorem payload_getLsbD (f : Int) {i : Nat} (hi : i < 16) :
    (payload f).getLsbD i = (encodeFreq f).getLsbD i := by
  simp [payload, hi]

/-- R141: where neither check stops it, SETF runs its write transaction. -/
theorem exec_setf_of_constructed (f : Int) {s : State} (hf : s.fault = .noFault)
    (hb : s.bound = true) : exec (.setf f) s = .next (writeTransaction (payload f) s) :=
  (unlessFaulted_of_unfaulted hf).trans (ifConstructed_of_bound hb)

/-! ### The obligations -/

/-- Settles O3: the decoder's equation for each opcode, with its fields as numbers. -/
theorem legalWordsDecodeToTheirOperands : Obligations.LegalWordsDecodeToTheirOperands := by
  refine fun hasReadc w => ⟨fun hop hres => ?_, decode_opcode_setf hasReadc, fun hop hres => ?_,
    decode_opcode_enc hasReadc, fun hop hres hr => ?_⟩
  · exact ⟨clkField w, selField w, dataField w, (decode_opcode_init hasReadc hop).trans (if_pos hres),
      clkField_toNat w, selField_toNat w, dataField_toNat w⟩
  · exact ⟨addrField w, (decode_opcode_read hasReadc hop).trans (if_pos hres), addrField_toNat w⟩
  · subst hr
    exact ⟨addrField w, (decode_opcode_readc_present hop).trans (if_pos hres), addrField_toNat w⟩

/-- Settles O4: the decoder's equation for each opcode, and the one answer to a rejected word. -/
theorem illegalWordsAreExactlyThoseListed : Obligations.IllegalWordsAreExactlyThoseListed :=
  ⟨decode_rejects_iff, fun _ _ _ _ hf hp hd =>
    (step_of_request hp).trans (perform_of_illegal hf hd)⟩

/-- Settles O34: between the brackets each SEND_BIT shows its bit, and no other event raises CLK. -/
theorem setfFrameOnTheWire : Obligations.SetfFrameOnTheWire := by
  intro f s hf hb
  refine ⟨_, writeEvents (payload f), exec_setf_of_constructed f hf hb, writeTransaction_trace _ s, ?_⟩
  rw [risingBits_writeEvents, writeFrameBits_eq_specFrameBits, List.map_map,
    specFrameBit_congr fun _ hi => payload_getLsbD f hi]
  rfl

end Sys2Proof.Machine
end

-- Proofs of the statements about the line primitives (40_line_primitives.md)
section
/-! PROOFS. What SEND_FIELD appends at every width, and the statements about the line primitives
(40_line_primitives.md). -/

namespace Sys2Proof.Machine

/-! ### SEND_FIELD at every width (R109) -/

theorem sendField_trace {m : Nat} (v : BitVec m) (w : Nat) (s : State) :
    (sendField v w s).trace =
      s.trace ++ (List.range w).flatMap fun i => sendBitEvents (v.getLsbD i) := by
  rw [sendField, sendBitsFrom_eq_play, List.range_eq_range']
  rfl

theorem length_sendBitEvents (b : Bool) : (sendBitEvents b).length = 8 := rfl

/-- R104, R109: eight events for each bit sent. -/
theorem length_flatMap_sendBitEvents (f : Nat → Bool) (is : List Nat) :
    (is.flatMap fun i => sendBitEvents (f i)).length = 8 * is.length := by
  induction is with
  | nil => rfl
  | cons i is ih =>
    rw [List.flatMap_cons, List.length_append, length_sendBitEvents, ih, List.length_cons]
    omega

/-! ### The obligations -/

/-- Settles O31: the bits that SEND_FIELD plays, and eight events for each of them. -/
theorem sendFieldSendsLowBitsFirst : Obligations.SendFieldSendsLowBitsFirst := by
  refine fun m v w s => ⟨sendField_trace v w s, ?_⟩
  rw [sendField_trace, List.length_append, length_flatMap_sendBitEvents, List.length_range]

/-- Settles O27: the level of a line after a write to the same and to another line. -/
theorem lineWriteDrivesOneLine : Obligations.LineWriteDrivesOneLine := fun l b s =>
  ⟨PerLine.get_set_same s.level l (Level.ofBit b),
    fun m hm => PerLine.get_set_other s.level l m (Level.ofBit b) hm, rfl⟩

/-- Settles O28: the draw is the sample at place 0, whatever the environment lists there. -/
theorem lineSampleReturnsTheDraw : Obligations.LineSampleReturnsTheDraw := by
  refine ⟨fun s => ?_, fun b s => rfl⟩
  rw [sampleAt_zero, List.drop_one]
  exact ⟨rfl, rfl⟩

/-- Settles O29: each primitive plays its events, and the levels are those the events drive. -/
theorem transmitPrimitivesAppendTheirEvents : Obligations.TransmitPrimitivesAppendTheirEvents :=
  fun s => ⟨fun b => sendBit_eq_play b s, enableBegin_eq_play s, enableEnd_eq_play s, park_eq_play s⟩

/-- Settles O30: the pulse plays its events around one draw, and leaves CLK low at either sample
point. -/
theorem receivePulseSamplesOnce : Obligations.ReceivePulseSamplesOnce := by
  intro s
  rw [sampleAt_zero, List.drop_one]
  refine ⟨recvBit_value s, ?_⟩
  rw [recvBit_eq_play, State.play, levelsAfter_recvBit]
  rfl

end Sys2Proof.Machine
end

-- Proofs of the statements about the encoder (41_encoder.md)
section
/-! PROOFS. The encoder's floor division as the Euclidean one, the range in which its reduction changes
nothing, and the statements about the encoder and ENC (41_encoder.md). -/

namespace Sys2Proof.Machine

/-! ### The formula in Euclidean division (R122, R125)

The divisors 2 and 32 are positive, so rounding toward negative infinity is Euclidean. -/

theorem intermediate_eq_ediv (f : Int) : intermediate f = (f - 479) / 2 :=
  Int.fdiv_eq_ediv_of_nonneg _ (by decide)

theorem divisorN_eq_ediv (f : Int) : divisorN f = intermediate f / 32 :=
  Int.fdiv_eq_ediv_of_nonneg _ (by decide)

theorem fractionA_eq_emod (f : Int) : fractionA f = intermediate f % 32 :=
  Int.fmod_eq_emod_of_nonneg _ (by decide)

theorem rawValue_eq_specRaw (f : Int) : rawValue f = specRaw f := by
  rw [rawValue, divisorN_eq_ediv, fractionA_eq_emod, intermediate_eq_ediv, specRaw]

theorem encodeFreq_eq_ofInt_specRaw (f : Int) : encodeFreq f = BitVec.ofInt 20 (specRaw f) := by
  rw [encodeFreq, rawValue_eq_specRaw]

/-- R124: the 20-bit form is the remainder modulo 2^20, of a negative raw value too. -/
theorem encodeFreq_toNat (f : Int) : ((encodeFreq f).toNat : Int) = specRaw f % 2 ^ 20 := by
  rw [encodeFreq_eq_ofInt_specRaw, BitVec.toNat_ofInt]
  exact Int.toNat_of_nonneg (Int.emod_nonneg _ (by decide))

/-- In this range 0 ≤ k < 2^18, so N < 2^13 and A < 2^5 fill the 20 bits at most. -/
theorem specRaw_fits {f : Int} (hlo : 479 ≤ f) (hhi : f ≤ 2 ^ 19 + 478) :
    0 ≤ specRaw f ∧ specRaw f < 2 ^ 20 := by
  have hk : 0 ≤ (f - 479) / 2 ∧ (f - 479) / 2 < 2 ^ 18 := by omega
  unfold specRaw
  omega

/-! ### ENC (R121) -/

/-- A command word that is read as i with READC or without runs i at the port. -/
theorem runsAs_of_decode {w : Word} {i : Instr}
    (h : ∀ hasReadc : Bool, decode hasReadc (.command w) = .instr i) : RunsAs w i :=
  fun s _ hp => (step_of_request hp).trans (perform_of_instr (h s.cfg.hasReadc))

/-- R121: ENC asks only that no fault stands, not that the block is bound. -/
theorem exec_enc_of_unfaulted (f : Int) {s : State} (hf : s.fault = .noFault) :
    exec (.enc f) s = .next (s.handToHost (encodeFreq f)) :=
  unlessFaulted_of_unfaulted hf

/-! ### The obligations -/

/-- Settles O19: the model's raw value is the Euclidean one, and in the range given it is below 2^20. -/
theorem encoderFollowsTheFormula : Obligations.EncoderFollowsTheFormula := by
  refine ⟨encodeFreq_toNat, fun f hlo hhi => ?_⟩
  obtain ⟨hnonneg, hlt⟩ := specRaw_fits hlo hhi
  rw [encodeFreq_toNat, Int.emod_eq_of_lt hnonneg hlt]

/-- Settles O20: opcode 4 decodes to ENC, which hands the encoder's value to the host. -/
theorem encReturnsTheEncodedValue : Obligations.EncReturnsTheEncodedValue := by
  refine ⟨fun w hop => runsAs_of_decode fun hasReadc => decode_opcode_enc hasReadc hop,
    fun f s => ⟨exec_of_faulted (.enc f), fun hf => ?_⟩⟩
  rw [exec_enc_of_unfaulted f hf, encodeFreq_eq_ofInt_specRaw, State.handToHost]

end Sys2Proof.Machine
end

-- Proofs of the statements about the write path (42_write.md)
section
/-! PROOFS. Which commands a host's word can decode to, which events each appends and what a wire observer
records of them; from these the statements about the write path (42_write.md). -/

namespace Sys2Proof.Machine

/-! ### SETF as R141 lists it -/

/-- R201: before INIT a transaction is stopped by its second check. -/
theorem guarded_of_unbound {s : State} {k : Host.Outcome State Fault Refusal}
    (hf : s.fault = .noFault) (hb : s.bound = false) :
    unlessFaulted s (ifConstructed s k) = .next { s with fault := .notConstructed } := by
  rw [unlessFaulted_of_unfaulted hf, ifConstructed_of_unbound hb, raiseFault_of_unfaulted hf]

theorem writeEvents_eq_specWriteTrace (reg : Payload) :
    writeEvents reg = specWriteTrace reg.getLsbD := by
  have haddr : lowBits 4 (1#4) = [true, false, false, false] := rfl
  have hpadding : lowBits 4 (0#4) = [false, false, false, false] := rfl
  have hdata : (lowBits 16 reg).flatMap sendBitEvents
      = (List.range 16).flatMap fun i => sendBitEvents (reg.getLsbD i) := List.flatMap_map ..
  simp only [writeEvents, writeFrameBits, haddr, hpadding, List.flatMap_append, hdata,
    List.flatMap_cons, List.flatMap_nil, List.append_nil, List.append_assoc, specWriteTrace]
  rfl

/-- Of the register value a write sends only the 16 low bits. -/
theorem specWriteTrace_congr {p q : Nat → Bool} (h : ∀ i < 16, p i = q i) :
    specWriteTrace p = specWriteTrace q := by
  have hdata : (List.range 16).flatMap (fun i => sendBitEvents (p i))
      = (List.range 16).flatMap fun i => sendBitEvents (q i) :=
    List.flatMap_congr fun i hi => congrArg sendBitEvents (h i (List.mem_range.mp hi))
  rw [specWriteTrace, specWriteTrace, hdata]

theorem writeEvents_payload (f : Int) :
    writeEvents (payload f) = specWriteTrace (BitVec.ofInt 20 (specRaw f)).getLsbD := by
  rw [writeEvents_eq_specWriteTrace, specWriteTrace_congr fun _ hi => payload_getLsbD f hi,
    encodeFreq_eq_ofInt_specRaw]

/-! ### What a host's word can decode to (R83, R85) -/

/-- R81: a word carries a frequency of 28 bits. -/
theorem wordFreq_range (w : Word) : -2 ^ 27 ≤ wordFreq w ∧ wordFreq w < 2 ^ 27 := by
  rw [← freqField_eq_wordFreq]
  exact ⟨BitVec.le_toInt _, BitVec.toInt_lt⟩

/-- The instruction that a format with reserved bits decodes to, where it decodes to one. -/
theorem instr_of_ite {p : Prop} [Decidable p] {i i' : Instr} {q : Reject}
    (h : (if p then Decoded.instr i else .reject q) = .instr i') : i = i' := by
  split at h
  next => exact Decoded.instr.inj h
  next => exact absurd h (by simp)

/-- The inversion of the decoder on command words: a command of the host, never a wire frame, and the
operand of SETF is the word's own. -/
theorem decode_command_cases {hasReadc : Bool} {w : Word} {i : Instr}
    (h : decode hasReadc (.command w) = .instr i) :
    (∃ c e d, i = .init c e d) ∨ i = .setf (wordFreq w) ∨ (∃ a, i = .read a)
    ∨ i = .enc (wordFreq w) ∨ ∃ a, i = .readc a := by
  obtain hop | hop | hop | hop | hop | hop := opcode_cases w
  · rw [decode_opcode_init hasReadc hop] at h
    exact .inl ⟨_, _, _, (instr_of_ite h).symm⟩
  · rw [decode_opcode_setf hasReadc hop] at h
    exact .inr (.inl (Decoded.instr.inj h).symm)
  · rw [decode_opcode_read hasReadc hop] at h
    exact .inr (.inr (.inl ⟨_, (instr_of_ite h).symm⟩))
  · rw [decode_opcode_enc hasReadc hop] at h
    exact .inr (.inr (.inr (.inl (Decoded.instr.inj h).symm)))
  · cases hasReadc with
    | false => exact absurd (decode_opcode_readc_absent hop ▸ h) (by simp)
    | true =>
      rw [decode_opcode_readc_present hop] at h
      exact .inr (.inr (.inr (.inr ⟨_, (instr_of_ite h).symm⟩)))
  · exact absurd (decode_opcode_other hasReadc hop ▸ h) (by simp)

/-! ### What a step does to the port and the trace -/

@[simp] theorem writeTransaction_port (reg : Payload) (s : State) :
    (writeTransaction reg s).port = s.port := by rw [writeTransaction_eq]
@[simp] theorem readTransaction_port (m : ReadMode) (a : RegAddr) (s : State) :
    (readTransaction m a s).port = s.port := by rw [readTransaction_eq]
@[simp] theorem returnAcc_port (s : State) : (returnAcc s).port = s.port := rfl

/-- No instruction touches the requests to come. -/
theorem Effect.port {i : Instr} {s t : State} (h : Effect s i t) : t.port = s.port := by
  cases h with
  | faulted | raises | binds | encodes | setf | frameWrite | read | readc | frameReadHdr => simp

/-- The events that an instruction appends: those of a write by SETF and FRAME_WRITE, those of a read, or
none. -/
theorem Effect.trace_cases {i : Instr} {s t : State} (h : Effect s i t) :
    t.trace = s.trace
    ∨ (∃ f, i = .setf f ∧ t.trace = s.trace ++ writeEvents (payload f))
    ∨ (∃ reg, i = .frameWrite reg ∧ t.trace = s.trace ++ writeEvents reg)
    ∨ ∃ a, t.trace = s.trace ++ readEvents a s := by
  cases h with
  | faulted | raises | binds | encodes => exact .inl (by simp)
  | setf f => exact .inr (.inl ⟨f, rfl, writeTransaction_trace _ s⟩)
  | frameWrite reg => exact .inr (.inr (.inl ⟨reg, rfl, writeTransaction_trace reg s⟩))
  | read a | readc a | frameReadHdr a =>
    exact .inr (.inr (.inr ⟨a, readTransaction_trace _ a s⟩))

/-- A step takes at most the oldest request from the port. -/
theorem step_port {s t : State} (h : step s = .next t) : t.port = s.port.tail := by
  obtain rfl | ⟨-, rfl⟩ | ⟨_, _, _, _, _, he⟩ := step_effect h
  · rfl
  · exact raiseFault_port _ _
  · exact he.port

theorem State.HostOnly.of_tail {s t : State} (hs : s.HostOnly) (hp : t.port = s.port.tail) :
    t.HostOnly := by
  rw [State.HostOnly, hp]
  rw [State.HostOnly, List.all_eq_true] at *
  exact fun r hr => hs r (List.mem_of_mem_tail hr)

/-- The oldest request of a host is a command word. -/
theorem State.HostOnly.command_of_port {s : State} {r : Request} {rest : List Request}
    (hs : s.HostOnly) (hp : s.port = r :: rest) : ∃ w, r = .command w := by
  rw [State.HostOnly, hp, List.all_cons, Bool.and_eq_true] at hs
  obtain ⟨hr, -⟩ := hs
  cases r with
  | command w => exact ⟨w, rfl⟩
  | writeFrame f => exact absurd hr Bool.false_ne_true
  | readHeader f => exact absurd hr Bool.false_ne_true

/-- R147: a host's step appends no events, those of a write of an encoded frequency, or those of a
read. -/
theorem step_trace_cases_of_hostOnly {s t : State} (hs : s.HostOnly) (h : step s = .next t) :
    t.trace = s.trace
    ∨ (∃ w, t.trace = s.trace ++ writeEvents (payload (wordFreq w)))
    ∨ ∃ a, t.trace = s.trace ++ readEvents a s := by
  obtain rfl | ⟨-, rfl⟩ | ⟨r, rest, i, hp, hd, he⟩ := step_effect h
  · exact .inl rfl
  · exact .inl (raiseFault_trace _ _)
  obtain ⟨w, rfl⟩ := hs.command_of_port hp
  obtain htrace | ⟨f, rfl, htrace⟩ | ⟨reg, rfl, -⟩ | ⟨a, htrace⟩ := he.trace_cases
  · exact .inl htrace
  · obtain rfl : f = wordFreq w := by simpa using decode_command_cases hd
    exact .inr (.inl ⟨w, htrace⟩)
  · exact absurd (decode_command_cases hd) (by simp)
  · exact .inr (.inr ⟨a, htrace⟩)

/-! ### What a wire observer records -/

/-- The observer's record of the write frame of an encoded frequency (R71, R130). -/
theorem risingBits_writeEvents_payload (lv : PerLine Level) (f : Int) :
    risingBits lv (writeEvents (payload f)) =
      (List.range 25).map fun n => Level.ofBit (specFrameBit (encodeFreq f).getLsbD n) := by
  rw [risingBits_writeEvents, writeFrameBits_eq_specFrameBits, List.map_map,
    specFrameBit_congr fun _ hi => payload_getLsbD f hi]
  rfl

/-- R108: a receive pulse shows the observer the level that DATA rests at, at either sample point. -/
theorem risingBits_recvBit {lv : PerLine Level} (hsel : lv.sel = .low) (p : SamplePoint) (b : Bool) :
    risingBits lv (recvBitEvents p b) = [lv.data] := by
  cases p with
  | endOfHigh | afterFall => simp [recvBitEvents, risingBits, Event.applyTo, hsel]

theorem risingBits_recvBits {lv : PerLine Level} (hsel : lv.sel = .low) (p : SamplePoint)
    (f : Nat → Bool) (is : List Nat) :
    risingBits lv (is.flatMap fun i => recvBitEvents p (f i)) = List.replicate is.length lv.data := by
  induction is generalizing lv with
  | nil => rfl
  | cons i is ih =>
    rw [List.flatMap_cons, risingBits_append, risingBits_recvBit hsel, levelsAfter_recvBit,
      ih (by exact hsel)]
    rfl

/-- R73, R165: a read shows the observer its header, then DATA low at the 20 receive pulses; its brackets
and PARK show nothing. -/
theorem risingBits_readEvents (lv : PerLine Level) (a : RegAddr) (s : State) :
    risingBits lv (readEvents a s) =
      (readHeaderBits a).map Level.ofBit ++ List.replicate 20 .low := by
  have hsel : (levelsAfter lv enableBeginEvents).sel = .low := rfl
  have hclosing : Event.set .clk true ∉
      enableEndEvents ++ if s.cfg.readParks then parkEvents else [] := by
    split <;> decide
  have hheader : levelsAfter (levelsAfter lv enableBeginEvents)
      ((readHeaderBits a).flatMap sendBitEvents) = PerLine.all .low := levelsAfter_sendBits _ _ _
  simp only [readEvents, List.append_assoc]
  rw [risingBits_append, risingBits_of_no_rise (es := enableBeginEvents) (by decide), List.nil_append,
    risingBits_append, risingBits_sendBits hsel, hheader, risingBits_append,
    risingBits_recvBits rfl, risingBits_of_no_rise hclosing, List.append_nil, List.length_range]
  rfl

theorem map_readHeaderBits (a : RegAddr) :
    (readHeaderBits a).map Level.ofBit ++ List.replicate 20 .low =
      (List.range 4).map (fun n => Level.ofBit (a.getLsbD n)) ++ List.replicate 21 .low := rfl

/-! ### The obligations -/

/-- Settles O55: a host's word decodes to no wire frame, so the only events are those of SETF's write and
of the reads, and these show the observer their frames from whatever levels stand before. -/
theorem hostCommandsEmitOnlyLegalFrames : Obligations.HostCommandsEmitOnlyLegalFrames := by
  refine fun s t hs h => ⟨hs.of_tail (step_port h), ?_⟩
  obtain htrace | ⟨w, htrace⟩ | ⟨a, htrace⟩ := step_trace_cases_of_hostOnly hs h
  · exact ⟨[], htrace.trans (List.append_nil _).symm, .inl rfl⟩
  · obtain ⟨hlo, hhi⟩ := wordFreq_range w
    exact ⟨_, htrace, .inr (.inl ⟨wordFreq w, hlo, hhi, risingBits_writeEvents_payload _ _⟩)⟩
  · exact ⟨_, htrace, .inr (.inr ⟨a, (risingBits_readEvents _ a s).trans (map_readHeaderBits a)⟩)⟩

/-- Settles O32: opcode 2 decodes to SETF, whose two checks answer first, and whose transaction appends
the events of R141. -/
theorem setfSendsTheEncodedFrame : Obligations.SetfSendsTheEncodedFrame := by
  refine ⟨fun w hop => runsAs_of_decode fun hasReadc => decode_opcode_setf hasReadc hop,
    fun f s => ⟨exec_of_faulted (.setf f), guarded_of_unbound, fun hf hb => ?_⟩⟩
  rw [exec_setf_of_constructed f hf hb, writeTransaction_eq, writeEvents_payload]
  rfl

end Sys2Proof.Machine
end

-- Proofs of the statements about the read path (43_read.md)
section
/-! PROOFS. What the accumulator holds after each receive iteration, what a read returns, and which words
run READ and READC; from these the statements about the read path (43_read.md). -/

namespace Sys2Proof.Machine

/-! ### The accumulator (R162, R167) -/

theorem bitValue_eq_ite (b : Bool) : bitValue b = if b then 1#20 else 0#20 := by
  cases b <;> rfl

/-- R162: READ keeps the latest sample alone. -/
theorem accAfter_latest (s : State) (n : Nat) :
    accAfter .latest s (n + 1) = if s.sampleAt n then 1#20 else 0#20 :=
  bitValue_eq_ite (s.sampleAt n)

theorem getLsbD_bitValue_shiftLeft (b : Bool) (n i : Nat) :
    (bitValue b <<< n).getLsbD i = (decide (i < 20) && (decide (i = n) && b)) := by
  have hbit : i < n ∨ i - n ≠ 0 ∨ i = n := by omega
  rw [bitValue, BitVec.getLsbD_shiftLeft, BitVec.getLsbD_setWidth, BitVec.getLsbD_ofBool]
  obtain hlt | hgt | rfl := hbit
  · simp [hlt, hlt.ne]
  · simp [hgt, show i ≠ n by omega]
  · simp

/-- R167: after n iterations bit i is sample i, and the bits from n on are still 0. -/
theorem getLsbD_accAfter_shifted (s : State) (n i : Nat) :
    (accAfter .shifted s n).getLsbD i = (decide (i < 20) && (decide (i < n) && s.sampleAt i)) := by
  induction n with
  | zero => simp [accAfter]
  | succ n ih =>
    rw [accAfter, accUpdate, BitVec.getLsbD_or, ih, getLsbD_bitValue_shiftLeft]
    by_cases hin : i = n
    · simp [hin]
    · have hlt : i < n + 1 ↔ i < n := by omega
      simp only [hlt]
      simp [hin]

theorem bitValue_shiftLeft_eq_ofNat (b : Bool) (n : Nat) :
    bitValue b <<< n = BitVec.ofNat 20 (b.toNat * 2 ^ n) := by
  apply BitVec.eq_of_toNat_eq
  rw [BitVec.toNat_shiftLeft, BitVec.toNat_ofNat, Nat.shiftLeft_eq]
  cases b <;> rfl

/-- Iteration n finds its bit still 0, so setting it adds `s_n * 2^n`. -/
theorem accAfter_shifted_eq_sampleSum (s : State) (n : Nat) :
    accAfter .shifted s n = sampleSum s n := by
  induction n with
  | zero => rfl
  | succ n ih =>
    have hdisjoint : accAfter .shifted s n &&& (bitValue (s.sampleAt n) <<< n) = 0#20 := by
      apply BitVec.eq_of_getLsbD_eq
      intro i _
      rw [BitVec.getLsbD_and, getLsbD_accAfter_shifted, getLsbD_bitValue_shiftLeft]
      by_cases hin : i = n <;> simp [hin]
    rw [accAfter, accUpdate, ← BitVec.add_eq_or_of_and_eq_zero _ _ hdisjoint, ih,
      bitValue_shiftLeft_eq_ofNat, sampleSum]

/-! ### READ and READC as R161 and R166 list them -/

theorem readEvents_eq_specReadTrace (a : RegAddr) (s : State) :
    readEvents a s = specReadTrace a s := by
  have hheader : (readHeaderBits a).flatMap sendBitEvents
      = sendBitEvents (a.getLsbD 0) ++ sendBitEvents (a.getLsbD 1) ++ sendBitEvents (a.getLsbD 2)
        ++ sendBitEvents (a.getLsbD 3) ++ sendBitEvents false := rfl
  simp only [readEvents, hheader, specReadTrace, List.append_assoc]
  rfl

/-- What a read leaves behind once its accumulator is returned (R161, R163, R28). -/
theorem returnAcc_readTransaction_eq (m : ReadMode) (a : RegAddr) (s : State) :
    returnAcc (readTransaction m a s) =
      { s with
        level := { clk := .low, sel := if s.cfg.readParks then .low else .high, data := .low }
        phase := .idle
        j := none
        acc := none
        trace := s.trace ++ specReadTrace a s
        samples := s.samples.drop 20
        draws := s.draws + 20
        received := s.received ++ [accAfter m s 20] } := by
  rw [readTransaction_eq, readEvents_eq_specReadTrace]
  rfl

/-- Where neither check stops it, a transaction runs. -/
theorem guarded_of_bound {s : State} {k : Host.Outcome State Fault Refusal}
    (hf : s.fault = .noFault) (hb : s.bound = true) : unlessFaulted s (ifConstructed s k) = k :=
  (unlessFaulted_of_unfaulted hf).trans (ifConstructed_of_bound hb)

/-- R161: where neither check stops it, READ returns the accumulator of its transaction. -/
theorem exec_read_of_constructed (a : RegAddr) {s : State} (hf : s.fault = .noFault)
    (hb : s.bound = true) :
    exec (.read a) s = .next (returnAcc (readTransaction .latest a s)) := guarded_of_bound hf hb

/-- R166: a block with READC checks no more than the other transactions do. -/
theorem exec_readc_of_present (a : RegAddr) {s : State} (hr : s.cfg.hasReadc = true) :
    exec (.readc a) s =
      unlessFaulted s (ifConstructed s (.next (returnAcc (readTransaction .shifted a s)))) :=
  congrArg (unlessFaulted s) (if_pos hr)

/-- R204: on a block without READC it is an illegal command, bound or not. -/
theorem exec_readc_of_absent (a : RegAddr) {s : State} (hf : s.fault = .noFault)
    (hr : s.cfg.hasReadc = false) :
    exec (.readc a) s = .next { s with fault := .illegalCommand } := by
  have hexec : exec (.readc a) s = unlessFaulted s (.next (raiseFault .illegalCommand s)) :=
    congrArg (unlessFaulted s) (if_neg (Bool.eq_false_iff.mp hr))
  rw [hexec, unlessFaulted_of_unfaulted hf, raiseFault_of_unfaulted hf]

/-! ### The words that run them (R78, R80, R84) -/

/-- A word that is illegal with READC and without is illegal at the port of every block. -/
theorem raisesIllegal_of_illegalWord {w : Word} (h : ∀ hasReadc : Bool, IllegalWord hasReadc w) :
    RaisesIllegal w := by
  intro s rest hf hp
  obtain ⟨_, hd⟩ := (decode_rejects_iff s.cfg.hasReadc w).mpr (h _)
  exact (step_of_request hp).trans (perform_of_illegal hf hd)

/-- The reserved bits of the two read formats. -/
theorem raisesIllegal_of_readReserved {w : Word}
    (hop : wordBits w 31 28 = 3 ∨ wordBits w 31 28 = 5) (hres : wordBits w 27 4 ≠ 0) :
    RaisesIllegal w :=
  raisesIllegal_of_illegalWord fun _ => .inr (.inr (.inr (.inl ⟨hop, hres⟩)))

theorem runsAs_read {w : Word} (hop : wordBits w 31 28 = 3) (hres : wordBits w 27 4 = 0) :
    RunsAs w (.read (addrField w)) :=
  runsAs_of_decode fun hasReadc => (decode_opcode_read hasReadc hop).trans (if_pos hres)

/-- On a block without READC the decoder rejects the word, and `perform` answers as `exec` does. -/
theorem perform_readc {w : Word} (hop : wordBits w 31 28 = 5) (hres : wordBits w 27 4 = 0)
    (s : State) : perform (.command w) s = exec (.readc (addrField w)) s := by
  by_cases hf : s.fault = .noFault
  swap
  · rw [perform_of_faulted _ hf, exec_of_faulted _ hf]
  cases hr : s.cfg.hasReadc with
  | true => exact perform_of_instr (by rw [hr, decode_opcode_readc_present hop, if_pos hres])
  | false =>
    rw [exec_readc_of_absent _ hf hr]
    exact perform_of_illegal hf (by rw [hr, decode_opcode_readc_absent hop])

theorem runsAs_readc {w : Word} (hop : wordBits w 31 28 = 5) (hres : wordBits w 27 4 = 0) :
    RunsAs w (.readc (addrField w)) :=
  fun _ _ hp => (step_of_request hp).trans (perform_readc hop hres _)

/-! ### The obligations -/

/-- Settles O39: opcode 3 decodes to READ, whose two checks answer first, and whose accumulator ends as
the last sample. -/
theorem readReturnsTheLastSample : Obligations.ReadReturnsTheLastSample := by
  refine ⟨fun w hop => ⟨fun hres => ⟨addrField w, addrField_toNat w, runsAs_read hop hres⟩,
      raisesIllegal_of_readReserved (.inl hop)⟩,
    fun a s => ⟨exec_of_faulted (.read a), guarded_of_unbound, fun hf hb => ?_⟩⟩
  rw [exec_read_of_constructed a hf hb, returnAcc_readTransaction_eq, accAfter_latest]

/-- Settles O40: opcode 5 runs READC with READC and without, its presence is checked before the binding,
and its accumulator ends as the sum of the samples. -/
theorem readcReturnsAllSamples : Obligations.ReadcReturnsAllSamples := by
  refine ⟨fun w hop => ⟨fun hres => ⟨addrField w, addrField_toNat w, runsAs_readc hop hres⟩,
      raisesIllegal_of_readReserved (.inr hop)⟩,
    fun a s => ⟨exec_of_faulted (.readc a), exec_readc_of_absent a, fun hf hr hb => ?_,
      fun hf hr hb => ?_⟩⟩
  · rw [exec_readc_of_present a hr, guarded_of_unbound hf hb]
  · rw [exec_readc_of_present a hr, guarded_of_bound hf hb, returnAcc_readTransaction_eq,
      accAfter_shifted_eq_sampleSum]

end Sys2Proof.Machine
end

-- Proofs of the statements about construction (44_construction.md)
section
/-! PROOFS. What INIT answers in each case of R181 and which words run it; from these the statement about
construction (44_construction.md). -/

namespace Sys2Proof.Machine

/-! ### INIT as R181 lists it -/

section

variable {c e d : LineIdent} {s : State} (hf : s.fault = .noFault)

include hf

/-- R203: a bound block does not look at the identifiers. -/
theorem exec_init_of_bound (hb : s.bound = true) :
    exec (.init c e d) s = .next { s with fault := .alreadyConstructed } := by
  rw [← raiseFault_of_unfaulted hf]
  exact (unlessFaulted_of_unfaulted hf).trans (if_pos hb)

/-- Where no fault stands and the block is unbound, the identifiers decide. -/
theorem exec_init_of_unbound (hb : s.bound = false) :
    exec (.init c e d) s = if c = e ∨ c = d ∨ e = d then .next { s with fault := .linesNotDistinct }
      else .next (bindLines c e d s) := by
  rw [← raiseFault_of_unfaulted hf]
  exact (unlessFaulted_of_unfaulted hf).trans (if_neg (Bool.eq_false_iff.mp hb))

end

/-! ### The words that run it (R76, R84) -/

theorem runsAs_init {w : Word} (hop : wordBits w 31 28 = 1) (hres : wordBits w 27 24 = 0) :
    RunsAs w (.init (clkField w) (selField w) (dataField w)) :=
  runsAs_of_decode fun hasReadc => (decode_opcode_init hasReadc hop).trans (if_pos hres)

/-- The reserved bits of the format of INIT. -/
theorem raisesIllegal_of_initReserved {w : Word} (hop : wordBits w 31 28 = 1)
    (hres : wordBits w 27 24 ≠ 0) : RaisesIllegal w :=
  raisesIllegal_of_illegalWord fun _ => .inr (.inr (.inl ⟨hop, hres⟩))

/-! ### The obligation -/

/-- Settles O16: opcode 1 decodes to INIT, which looks at the fault register, then at the binding, then at
its three identifiers. -/
theorem initBindsThreeDistinctLinesOnce : Obligations.InitBindsThreeDistinctLinesOnce := by
  refine ⟨fun w hop => ⟨fun hres => ⟨clkField w, selField w, dataField w, clkField_toNat w,
      selField_toNat w, dataField_toNat w, runsAs_init hop hres⟩, raisesIllegal_of_initReserved hop⟩,
    fun c e d s => ⟨exec_of_faulted (.init c e d), exec_init_of_bound, fun hf hb heq => ?_,
      fun hf hb hce hcd hed => ?_⟩⟩
  · exact (exec_init_of_unbound hf hb).trans (if_pos heq)
  · exact (exec_init_of_unbound hf hb).trans (if_neg (by simp [hce, hcd, hed]))

end Sys2Proof.Machine
end

-- Proofs of the statements about faults (60_exceptions.md)
section
/-! PROOFS. What a fault leaves as it was, and which fault each command answers with (R208); from these the
statements about faults (60_exceptions.md). -/

namespace Sys2Proof.Machine

/-! ### Faults are precise and final (R205) -/

/-- Where an unfaulted state is left with its register or by a fault, a state with a fault is that state
plus the code. -/
theorem eq_of_fault_cases {s t : State} (hf : s.fault = .noFault) (ht : t.fault ≠ .noFault)
    (h : t.fault = s.fault ∨ (s.fault = .noFault ∧ ∃ c, t = raiseFault c s)) :
    t = { s with fault := t.fault } := by
  obtain hkeep | ⟨-, c, rfl⟩ := h
  · exact absurd (hkeep.trans hf) ht
  · rw [raiseFault_of_unfaulted hf]

/-- A faulted block takes a request, if there is one, and does nothing with it. -/
theorem step_of_faulted {s : State} (hf : s.fault ≠ .noFault) : step s = .next s.withoutRequest := by
  cases hp : s.port with
  | nil => rw [step_of_empty_port hp, State.withoutRequest_of_empty_port hp]
  | cons r rest =>
    have hs : { s with port := rest } = s.withoutRequest := by simp [State.withoutRequest, hp]
    rw [step_of_request hp, hs]
    exact perform_of_faulted r hf

/-! ### The words that R208 tells apart -/

/-- R84, the other way round: the formats of the legal words. -/
theorem legalWord_cases {hasReadc : Bool} {w : Word} (h : ¬ IllegalWord hasReadc w) :
    (wordBits w 31 28 = 1 ∧ wordBits w 27 24 = 0)
    ∨ wordBits w 31 28 = 2
    ∨ (wordBits w 31 28 = 3 ∧ wordBits w 27 4 = 0)
    ∨ wordBits w 31 28 = 4
    ∨ (wordBits w 31 28 = 5 ∧ wordBits w 27 4 = 0 ∧ hasReadc = true) := by
  unfold IllegalWord at h
  cases hasReadc <;>
  · simp only [reduceCtorEq, and_true, and_false] at h ⊢
    omega

section

variable {s : State} {w : Word}

/-- R208 (1): decoding comes first. -/
theorem specFault_of_illegalWord (h : IllegalWord s.cfg.hasReadc w) :
    specFault s w = .illegalCommand := by
  obtain hop | hop | ⟨hop, hres⟩ | ⟨hop | hop, hres⟩ | ⟨hop, hr⟩ := h
  · simp [specFault, hop]
  · obtain ⟨h1, h2, h3, h4, h5⟩ : wordBits w 31 28 ≠ 1 ∧ wordBits w 31 28 ≠ 2 ∧ wordBits w 31 28 ≠ 3
      ∧ wordBits w 31 28 ≠ 4 ∧ wordBits w 31 28 ≠ 5 := by omega
    simp [specFault, h1, h2, h3, h4, h5]
  · simp [specFault, hop, hres]
  · simp [specFault, hop, hres]
  · simp [specFault, hop, hres]
  · simp [specFault, hop, hr]

/-- R208 (2) for INIT. -/
theorem specFault_of_init (hop : wordBits w 31 28 = 1) (hres : wordBits w 27 24 = 0) :
    specFault s w = if s.bound then .alreadyConstructed
      else if clkField w = selField w ∨ clkField w = dataField w ∨ selField w = dataField w
        then .linesNotDistinct
      else .noFault := by
  simp only [← BitVec.toNat_inj, clkField_toNat, selField_toNat, dataField_toNat]
  exact if_pos ⟨hop, hres⟩

/-- R208 (2) for SETF, READ and READC. -/
theorem specFault_of_transaction
    (h : wordBits w 31 28 = 2 ∨ (wordBits w 31 28 = 3 ∧ wordBits w 27 4 = 0)
      ∨ (wordBits w 31 28 = 5 ∧ wordBits w 27 4 = 0 ∧ s.cfg.hasReadc = true)) :
    specFault s w = if s.bound then .noFault else .notConstructed := by
  have hinit : ¬ (wordBits w 31 28 = 1 ∧ wordBits w 27 24 = 0) := by omega
  exact (if_neg hinit).trans (if_pos h)

/-- R201: ENC has no check of its own. -/
theorem specFault_of_enc (hop : wordBits w 31 28 = 4) : specFault s w = .noFault := by
  simp [specFault, hop]

end

/-! ### The fault that each command answers with (R208) -/

/-- An outcome is a next state whose fault register holds c. -/
def EndsWithFault (o : Host.Outcome State Fault Refusal) (c : FaultCode) : Prop :=
  ∃ t, o = .next t ∧ t.fault = c

/-- The step on a word that runs i answers with the fault that i answers with. -/
theorem RunsAs.step_endsWithFault {w : Word} {i : Instr} {s : State} {rest : List Request}
    {c : FaultCode} (hrun : RunsAs w i) (hp : s.port = .command w :: rest)
    (hspec : specFault s w = c) (hexec : EndsWithFault (exec i { s with port := rest }) c) :
    EndsWithFault (step s) (specFault s w) := by
  rwa [hrun s rest hp, hspec]

section

variable {s : State} (hf : s.fault = .noFault)

include hf

/-- R203 before R202. -/
theorem exec_init_endsWithFault (c e d : LineIdent) :
    EndsWithFault (exec (.init c e d) s) (if s.bound then .alreadyConstructed
      else if c = e ∨ c = d ∨ e = d then .linesNotDistinct else .noFault) := by
  cases hb : s.bound with
  | true => exact ⟨_, exec_init_of_bound hf hb, rfl⟩
  | false =>
    rw [exec_init_of_unbound hf hb]
    split
    next => exact ⟨_, rfl, rfl⟩
    next => exact ⟨_, rfl, hf⟩

/-- R201, whatever the transaction, where the transaction itself raises no fault. -/
theorem guarded_endsWithFault {u : State} (hu : u.fault = s.fault) :
    EndsWithFault (unlessFaulted s (ifConstructed s (.next u)))
      (if s.bound then .noFault else .notConstructed) := by
  cases hb : s.bound with
  | true => exact ⟨u, guarded_of_bound hf hb, hu.trans hf⟩
  | false => exact ⟨_, guarded_of_unbound hf hb, rfl⟩

theorem exec_setf_endsWithFault (f : Int) :
    EndsWithFault (exec (.setf f) s) (if s.bound then .noFault else .notConstructed) :=
  guarded_endsWithFault hf (writeTransaction_fault _ s)

theorem exec_read_endsWithFault (a : RegAddr) :
    EndsWithFault (exec (.read a) s) (if s.bound then .noFault else .notConstructed) :=
  guarded_endsWithFault hf (readTransaction_fault _ a s)

theorem exec_readc_endsWithFault (a : RegAddr) (hr : s.cfg.hasReadc = true) :
    EndsWithFault (exec (.readc a) s) (if s.bound then .noFault else .notConstructed) := by
  rw [exec_readc_of_present a hr]
  exact guarded_endsWithFault hf (readTransaction_fault _ a s)

theorem exec_enc_endsWithFault (f : Int) : EndsWithFault (exec (.enc f) s) .noFault :=
  ⟨_, exec_enc_of_unfaulted f hf, hf⟩

end

/-! ### The obligations -/

/-- Settles O10: an illegal word decodes to no command, and a rejected word has one answer. -/
theorem illegalWordRaisesIllegalCommand : Obligations.IllegalWordRaisesIllegalCommand := by
  intro s w rest hf hp hill
  obtain ⟨_, hd⟩ := (decode_rejects_iff s.cfg.hasReadc w).mpr hill
  exact (step_of_request hp).trans (perform_of_illegal hf hd)

/-- Settles O11: only `raiseFault` writes the register, and every meaning begins with its check. -/
theorem faultsArePreciseAndFinal : Obligations.FaultsArePreciseAndFinal :=
  ⟨fun _ _ => raiseFault_of_unfaulted,
    fun _ _ _ hf h ht => eq_of_fault_cases hf ht (effect_of_exec h).fault_cases,
    fun s _ hf h ht => eq_of_fault_cases (s := s.withoutRequest) hf ht (step_fault_cases h),
    fun i _ => exec_of_faulted i,
    fun _ => step_of_faulted⟩

/-- Settles O13: an illegal word answers first; a legal one runs its command, whose checks come in the
order of R208. -/
theorem eachCommandReportsTheFirstFault : Obligations.EachCommandReportsTheFirstFault := by
  intro s w rest hf hp
  by_cases hill : IllegalWord s.cfg.hasReadc w
  · exact ⟨_, illegalWordRaisesIllegalCommand s w rest hf hp hill, (specFault_of_illegalWord hill).symm⟩
  have hf' : ({ s with port := rest } : State).fault = .noFault := hf
  obtain ⟨hop, hres⟩ | hop | ⟨hop, hres⟩ | hop | ⟨hop, hres, hr⟩ := legalWord_cases hill
  · exact (runsAs_init hop hres).step_endsWithFault hp (specFault_of_init hop hres)
      (exec_init_endsWithFault hf' _ _ _)
  · exact (runsAs_of_decode (decode_opcode_setf · hop)).step_endsWithFault hp
      (specFault_of_transaction (.inl hop)) (exec_setf_endsWithFault hf' _)
  · exact (runsAs_read hop hres).step_endsWithFault hp
      (specFault_of_transaction (.inr (.inl ⟨hop, hres⟩))) (exec_read_endsWithFault hf' _)
  · exact (runsAs_of_decode (decode_opcode_enc · hop)).step_endsWithFault hp
      (specFault_of_enc hop) (exec_enc_endsWithFault hf' _)
  · exact (runsAs_readc hop hres).step_endsWithFault hp
      (specFault_of_transaction (.inr (.inr ⟨hop, hres, hr⟩))) (exec_readc_endsWithFault hf' _ hr)

/-- Settles O14: the three transactions share the check of the binding, which ENC does not make. -/
theorem transactionsBeforeInitRaiseNotConstructed :
    Obligations.TransactionsBeforeInitRaiseNotConstructed := fun _ hf hb =>
  ⟨fun _ => guarded_of_unbound hf hb, fun _ => guarded_of_unbound hf hb,
    fun a hr => (exec_readc_of_present a hr).trans (guarded_of_unbound hf hb),
    exec_enc_endsWithFault hf⟩

end Sys2Proof.Machine
end

-- Proofs of the statements about decoding an encoded word and encoding a decoded one (30_encoding.md)
section
/-! PROOFS. The fields of a word put together from its formats, a word put together from its fields, and
from these the two directions in which decoder and encoder agree (30_encoding.md). -/

namespace Sys2Proof.Machine

/-! ### The fields of the formats (R76 to R80) -/

theorem opcodeField_append (op : BitVec 4) (body : BitVec 28) : opcodeField (op ++ body) = op :=
  BitVec.extractLsb'_append_eq_left

theorem freqField_append (op : BitVec 4) (f : BitVec 28) : freqField (op ++ f) = f.toInt :=
  congrArg BitVec.toInt BitVec.extractLsb'_append_eq_right

theorem opcodeField_append_addr (op : BitVec 4) (r : BitVec 24) (a : RegAddr) :
    opcodeField (op ++ r ++ a) = op :=
  (BitVec.extractLsb'_append_eq_of_le (by decide)).trans BitVec.extractLsb'_append_eq_left

theorem readReservedField_append (op : BitVec 4) (r : BitVec 24) (a : RegAddr) :
    readReservedField (op ++ r ++ a) = r :=
  (BitVec.extractLsb'_append_eq_of_le (by decide)).trans BitVec.extractLsb'_append_eq_right

theorem addrField_append (hi : BitVec 28) (a : RegAddr) : addrField (hi ++ a) = a :=
  BitVec.extractLsb'_append_eq_right

section

variable (op r : BitVec 4) (c e d : LineIdent)

theorem dataField_append (hi : BitVec 24) : dataField (hi ++ d) = d :=
  BitVec.extractLsb'_append_eq_right

theorem selField_append (hi : BitVec 16) : selField (hi ++ e ++ d) = e :=
  (BitVec.extractLsb'_append_eq_of_le (by decide)).trans BitVec.extractLsb'_append_eq_right

theorem clkField_append (hi : BitVec 8) : clkField (hi ++ c ++ e ++ d) = c := by
  rw [clkField, BitVec.extractLsb'_append_eq_of_le (by decide),
    BitVec.extractLsb'_append_eq_of_le (by decide)]
  exact BitVec.extractLsb'_append_eq_right

/-- The 8 bits above the identifiers of INIT. -/
theorem extractLsb'_append_identifiers (hi : BitVec 8) (start len : Nat) (h : 24 ≤ start) :
    (hi ++ c ++ e ++ d).extractLsb' start len = hi.extractLsb' (start - 24) len := by
  rw [BitVec.extractLsb'_append_eq_of_le (by omega), BitVec.extractLsb'_append_eq_of_le (by omega),
    BitVec.extractLsb'_append_eq_of_le (by omega)]
  congr 1

theorem initReservedField_append : initReservedField (op ++ r ++ c ++ e ++ d) = r :=
  (extractLsb'_append_identifiers c e d _ 24 4 (by decide)).trans BitVec.extractLsb'_append_eq_right

theorem opcodeField_append_identifiers : opcodeField (op ++ r ++ c ++ e ++ d) = op :=
  (extractLsb'_append_identifiers c e d _ 28 4 (by decide)).trans BitVec.extractLsb'_append_eq_left

end

/-! ### A word from its fields -/

section

variable {w : Word} {op : BitVec 4} (hop : wordBits w 31 28 = op.toNat)

include hop

theorem append_wordFreq : op ++ BitVec.ofInt 28 (wordFreq w) = w := by
  rw [← freqField_eq_wordFreq, freqField, BitVec.ofInt_toInt, ← (opcodeField_eq_iff w op).mpr hop]
  exact BitVec.extractLsb'_append_extractLsb'

theorem append_addrField (hres : wordBits w 27 4 = 0) : op ++ 0#24 ++ addrField w = w := by
  have hhigh : op ++ 0#24 = w.extractLsb' 4 28 := by
    rw [← (opcodeField_eq_iff w op).mpr hop, ← (readReservedField_eq_zero_iff w).mpr hres]
    exact BitVec.extractLsb'_append_extractLsb'_eq_extractLsb' rfl
  rw [hhigh]
  exact BitVec.extractLsb'_append_extractLsb'

theorem append_identifierFields (hres : wordBits w 27 24 = 0) :
    op ++ 0#4 ++ clkField w ++ selField w ++ dataField w = w := by
  have hhigh : op ++ 0#4 = w.extractLsb' 24 8 := by
    rw [← (opcodeField_eq_iff w op).mpr hop, ← (initReservedField_eq_zero_iff w).mpr hres]
    exact BitVec.extractLsb'_append_extractLsb'_eq_extractLsb' rfl
  have hclk : w.extractLsb' 24 8 ++ clkField w = w.extractLsb' 16 16 :=
    BitVec.extractLsb'_append_extractLsb'_eq_extractLsb' rfl
  have hsel : w.extractLsb' 16 16 ++ selField w = w.extractLsb' 8 24 :=
    BitVec.extractLsb'_append_extractLsb'_eq_extractLsb' rfl
  rw [hhigh, hclk, hsel]
  exact BitVec.extractLsb'_append_extractLsb'

end

/-! ### The wire frames (R72, R73) -/

theorem decodeWriteFrame_writeFrameWord (data : Payload) :
    decodeWriteFrame (writeFrameWord data) = .instr (.frameWrite data) := by
  have haddr : (writeFrameWord data).extractLsb' 0 4 = 1#4 := BitVec.extractLsb'_append_eq_right
  have hflag : (writeFrameWord data).extractLsb' 4 1 = 1#1 :=
    (BitVec.extractLsb'_append_eq_of_le (by decide)).trans BitVec.extractLsb'_append_eq_right
  have hhigh : ∀ start len, 5 ≤ start →
      (writeFrameWord data).extractLsb' start len = (0#4 ++ data).extractLsb' (start - 5) len := by
    intro start len h
    rw [writeFrameWord, BitVec.extractLsb'_append_eq_of_le (by omega),
      BitVec.extractLsb'_append_eq_of_le (by omega)]
    congr 1
  have hpadding : (writeFrameWord data).extractLsb' 21 4 = 0#4 :=
    (hhigh 21 4 (by decide)).trans BitVec.extractLsb'_append_eq_left
  have hdata : (writeFrameWord data).extractLsb' 5 16 = data :=
    (hhigh 5 16 (by decide)).trans BitVec.extractLsb'_append_eq_right
  rw [decodeWriteFrame, if_pos ⟨haddr, hflag, hpadding⟩, hdata]

theorem decodeReadHeader_readHeaderWord (a : RegAddr) :
    decodeReadHeader (readHeaderWord a) = .instr (.frameReadHdr a) := by
  have hflag : (readHeaderWord a).extractLsb' 4 1 = 0#1 := BitVec.extractLsb'_append_eq_left
  have haddr : (readHeaderWord a).extractLsb' 0 4 = a := BitVec.extractLsb'_append_eq_right
  rw [decodeReadHeader, if_pos hflag, haddr]

theorem eq_writeFrameWord {f : WriteFrameWord} (haddr : f.extractLsb' 0 4 = 1#4)
    (hflag : f.extractLsb' 4 1 = 1#1) (hpadding : f.extractLsb' 21 4 = 0#4) :
    writeFrameWord (f.extractLsb' 5 16) = f := by
  have hdata : 0#4 ++ f.extractLsb' 5 16 = f.extractLsb' 5 20 := by
    rw [← hpadding]
    exact BitVec.extractLsb'_append_extractLsb'_eq_extractLsb' rfl
  have hhigh : f.extractLsb' 5 20 ++ 1#1 = f.extractLsb' 4 21 := by
    rw [← hflag]
    exact BitVec.extractLsb'_append_extractLsb'_eq_extractLsb' rfl
  rw [writeFrameWord, hdata, hhigh, ← haddr]
  exact BitVec.extractLsb'_append_extractLsb'

theorem eq_readHeaderWord {h : ReadHeaderWord} (hflag : h.extractLsb' 4 1 = 0#1) :
    readHeaderWord (h.extractLsb' 0 4) = h := by
  rw [readHeaderWord, ← hflag]
  exact BitVec.extractLsb'_append_extractLsb'

/-- R71, R74: the write frames that decode are those that the block emits. -/
theorem decodeWriteFrame_eq_instr {f : WriteFrameWord} {i : Instr}
    (h : decodeWriteFrame f = .instr i) : ∃ d, i = .frameWrite d ∧ writeFrameWord d = f := by
  unfold decodeWriteFrame at h
  split at h
  next hf =>
    obtain ⟨haddr, hflag, hpadding⟩ := hf
    exact ⟨_, (Decoded.instr.inj h).symm, eq_writeFrameWord haddr hflag hpadding⟩
  next => exact absurd h (by simp)

theorem decodeReadHeader_eq_instr {f : ReadHeaderWord} {i : Instr}
    (h : decodeReadHeader f = .instr i) : ∃ a, i = .frameReadHdr a ∧ readHeaderWord a = f := by
  unfold decodeReadHeader at h
  split at h
  next hflag => exact ⟨_, (Decoded.instr.inj h).symm, eq_readHeaderWord hflag⟩
  next => exact absurd h (by simp)

/-! ### Frequencies of 28 bits (R81) -/

theorem freqInRange_iff (f : Int) : freqInRange f = true ↔ -2 ^ 27 ≤ f ∧ f < 2 ^ 27 := by
  simp only [freqInRange, Bool.and_eq_true, decide_eq_true_eq]
  omega

theorem freqInRange_wordFreq (w : Word) : freqInRange (wordFreq w) = true :=
  (freqInRange_iff _).mpr (wordFreq_range w)

/-- A word put together from an opcode and a frequency of 28 bits gives the frequency back. -/
theorem wordFreq_append {f : Int} (hf : freqInRange f = true) (op : BitVec 4) :
    wordFreq (op ++ BitVec.ofInt 28 f) = f := by
  obtain ⟨hlo, hhi⟩ := (freqInRange_iff f).mp hf
  rw [← freqField_eq_wordFreq, freqField_append, BitVec.toInt_ofInt_eq_self (by decide) hlo hhi]

/-! ### Decoding what was encoded -/

section

variable (hasReadc : Bool)

theorem decode_encode_init (c e d : LineIdent) :
    decode hasReadc (encode (.init c e d)) = .instr (.init c e d) := by
  rw [encode, decode_opcode_init hasReadc
      ((opcodeField_eq_iff _ 1#4).mp (opcodeField_append_identifiers _ _ c e d)),
    if_pos ((initReservedField_eq_zero_iff _).mp (initReservedField_append _ _ c e d)),
    clkField_append, selField_append, dataField_append]

theorem decode_encode_setf {f : Int} (hf : freqInRange f = true) :
    decode hasReadc (encode (.setf f)) = .instr (.setf f) := by
  rw [encode, decode_opcode_setf hasReadc ((opcodeField_eq_iff _ 2#4).mp (opcodeField_append _ _)),
    wordFreq_append hf]

theorem decode_encode_enc {f : Int} (hf : freqInRange f = true) :
    decode hasReadc (encode (.enc f)) = .instr (.enc f) := by
  rw [encode, decode_opcode_enc hasReadc ((opcodeField_eq_iff _ 4#4).mp (opcodeField_append _ _)),
    wordFreq_append hf]

theorem decode_encode_read (a : RegAddr) :
    decode hasReadc (encode (.read a)) = .instr (.read a) := by
  rw [encode, decode_opcode_read hasReadc
      ((opcodeField_eq_iff _ 3#4).mp (opcodeField_append_addr _ _ a)),
    if_pos ((readReservedField_eq_zero_iff _).mp (readReservedField_append _ _ a)), addrField_append]

theorem decode_encode_readc (a : RegAddr) :
    decode true (encode (.readc a)) = .instr (.readc a) := by
  rw [encode, decode_opcode_readc_present
      ((opcodeField_eq_iff _ 5#4).mp (opcodeField_append_addr _ _ a)),
    if_pos ((readReservedField_eq_zero_iff _).mp (readReservedField_append _ _ a)), addrField_append]

end

/-! ### Encoding what was decoded -/

theorem ite_eq_instr {p : Prop} [Decidable p] {i i' : Instr} {q : Reject}
    (h : (if p then Decoded.instr i else .reject q) = .instr i') : p ∧ i = i' := by
  by_cases hp : p
  · exact ⟨hp, instr_of_ite h⟩
  · exact absurd (if_neg hp ▸ h) (by simp)

/-- A command word that decodes is its instruction's own, and its operands fit their fields. -/
theorem encode_of_decode_command {hasReadc : Bool} {w : Word} {i : Instr}
    (h : decode hasReadc (.command w) = .instr i) :
    encode i = .command w ∧ i.wellFormed hasReadc = true := by
  obtain hop | hop | hop | hop | hop | hop := opcode_cases w
  · rw [decode_opcode_init hasReadc hop] at h
    obtain ⟨hres, rfl⟩ := ite_eq_instr h
    exact ⟨congrArg _ (append_identifierFields (op := 1#4) hop hres), rfl⟩
  · rw [decode_opcode_setf hasReadc hop] at h
    obtain rfl := Decoded.instr.inj h
    exact ⟨congrArg _ (append_wordFreq (op := 2#4) hop), freqInRange_wordFreq w⟩
  · rw [decode_opcode_read hasReadc hop] at h
    obtain ⟨hres, rfl⟩ := ite_eq_instr h
    exact ⟨congrArg _ (append_addrField (op := 3#4) hop hres), rfl⟩
  · rw [decode_opcode_enc hasReadc hop] at h
    obtain rfl := Decoded.instr.inj h
    exact ⟨congrArg _ (append_wordFreq (op := 4#4) hop), freqInRange_wordFreq w⟩
  · cases hasReadc with
    | false => exact absurd (decode_opcode_readc_absent hop ▸ h) (by simp)
    | true =>
      rw [decode_opcode_readc_present hop] at h
      obtain ⟨hres, rfl⟩ := ite_eq_instr h
      exact ⟨congrArg _ (append_addrField (op := 5#4) hop hres), rfl⟩
  · exact absurd (decode_opcode_other hasReadc hop ▸ h) (by simp)

/-! ### The obligations -/

/-- Settles O1: row by row, each field of the word put together is read back. -/
theorem decodeOfEncodeIsTheInstruction : Obligations.DecodeOfEncodeIsTheInstruction := by
  intro hasReadc i hwf
  cases i with
  | init c e d => exact decode_encode_init hasReadc c e d
  | setf f => exact decode_encode_setf hasReadc hwf
  | read a => exact decode_encode_read hasReadc a
  | enc f => exact decode_encode_enc hasReadc hwf
  | readc a =>
    obtain rfl : hasReadc = true := hwf
    exact decode_encode_readc a
  | frameWrite data => exact decodeWriteFrame_writeFrameWord data
  | frameReadHdr a => exact decodeReadHeader_readHeaderWord a

/-- Settles O2: the fields that the decoder reads cover every bit of what it accepts. -/
theorem encodeOfDecodeIsTheWord : Obligations.EncodeOfDecodeIsTheWord := by
  intro hasReadc r i h
  cases r with
  | command w => exact encode_of_decode_command h
  | writeFrame f =>
    obtain ⟨d, rfl, rfl⟩ := decodeWriteFrame_eq_instr h
    exact ⟨rfl, rfl⟩
  | readHeader f =>
    obtain ⟨a, rfl, rfl⟩ := decodeReadHeader_eq_instr h
    exact ⟨rfl, rfl⟩

/-- Settles O5: the fields of each written word are literal bits, so the decoder computes. -/
theorem writtenOutWordsDecode : Obligations.WrittenOutWordsDecode := by
  unfold Obligations.WrittenOutWordsDecode
  decide

end Sys2Proof.Machine
end

-- Proofs of the statements about a step and what it keeps (20_memory.md, 70_reset_and_hazards.md)
section
/-! PROOFS. What each instruction leaves unchanged, that every command answers a next state, and that each
effect of an instruction keeps the invariant of the block between commands. -/

namespace Sys2Proof.Machine

/-! ### What the transactions leave in the other fields -/

@[simp] theorem writeTransaction_acc (reg : Payload) (s : State) :
    (writeTransaction reg s).acc = s.acc := by rw [writeTransaction_eq]
@[simp] theorem writeTransaction_cfg (reg : Payload) (s : State) :
    (writeTransaction reg s).cfg = s.cfg := by rw [writeTransaction_eq]
@[simp] theorem writeTransaction_samples (reg : Payload) (s : State) :
    (writeTransaction reg s).samples = s.samples := by rw [writeTransaction_eq]
@[simp] theorem writeTransaction_draws (reg : Payload) (s : State) :
    (writeTransaction reg s).draws = s.draws := by rw [writeTransaction_eq]
@[simp] theorem writeTransaction_received (reg : Payload) (s : State) :
    (writeTransaction reg s).received = s.received := by rw [writeTransaction_eq]

@[simp] theorem readTransaction_cfg (m : ReadMode) (a : RegAddr) (s : State) :
    (readTransaction m a s).cfg = s.cfg := by rw [readTransaction_eq]
@[simp] theorem readTransaction_received (m : ReadMode) (a : RegAddr) (s : State) :
    (readTransaction m a s).received = s.received := by rw [readTransaction_eq]
@[simp] theorem returnAcc_cfg (s : State) : (returnAcc s).cfg = s.cfg := rfl

/-- No instruction writes the parameters (D30). -/
theorem Effect.cfg {i : Instr} {s t : State} (h : Effect s i t) : t.cfg = s.cfg := by
  cases h with
  | faulted | raises | binds | encodes | setf | frameWrite | read | readc | frameReadHdr => simp

theorem step_cfg {s t : State} (h : step s = .next t) : t.cfg = s.cfg := by
  obtain rfl | ⟨-, rfl⟩ | ⟨_, _, _, _, _, he⟩ := step_effect h
  · rfl
  · exact raiseFault_cfg _ _
  · exact he.cfg

/-! ### Every command answers a next state (R205, R209) -/

theorem unlessFaulted_answers {s : State} {k : Host.Outcome State Fault Refusal}
    (hk : ∃ t, k = .next t) : ∃ t, unlessFaulted s k = .next t := by
  by_cases hf : s.fault = .noFault
  · rwa [unlessFaulted_of_unfaulted hf]
  · exact ⟨s, unlessFaulted_of_faulted hf⟩

/-- A transaction answers, whichever of the two checks stops it. -/
theorem guarded_answers (s u : State) : ∃ t, unlessFaulted s (ifConstructed s (.next u)) = .next t := by
  apply unlessFaulted_answers
  cases hb : s.bound with
  | true => exact ⟨u, ifConstructed_of_bound hb⟩
  | false => exact ⟨_, ifConstructed_of_unbound hb⟩

theorem execInit_answers (c e d : LineIdent) (s : State) : ∃ t, execInit c e d s = .next t := by
  apply unlessFaulted_answers
  split
  next => exact ⟨_, rfl⟩
  next =>
    split
    next => exact ⟨_, rfl⟩
    next => exact ⟨_, rfl⟩

theorem exec_answers (i : Instr) (s : State) : ∃ t, exec i s = .next t := by
  cases i with
  | init c e d => exact execInit_answers c e d s
  | setf f => exact guarded_answers s _
  | read a => exact guarded_answers s _
  | enc f => exact unlessFaulted_answers ⟨_, rfl⟩
  | readc a =>
    cases hr : s.cfg.hasReadc with
    | true => exact exec_readc_of_present a hr ▸ guarded_answers s _
    | false =>
      by_cases hf : s.fault = .noFault
      · exact ⟨_, exec_readc_of_absent a hf hr⟩
      · exact ⟨s, exec_of_faulted _ hf⟩
  | frameWrite data => exact guarded_answers s _
  | frameReadHdr a => exact guarded_answers s _

theorem perform_command_answers (w : Word) (s : State) : ∃ t, perform (.command w) s = .next t := by
  by_cases hf : s.fault = .noFault
  swap
  · exact ⟨s, perform_of_faulted _ hf⟩
  cases hd : decode s.cfg.hasReadc (.command w) with
  | instr i => exact perform_of_instr hd ▸ exec_answers i s
  | reject q => exact ⟨_, perform_of_illegal hf hd⟩

/-! ### Frames that the block never emits (R74) -/

/-- Frame bits that decode to no instruction have one reason. -/
theorem decode_never_emitted {hasReadc : Bool} {r : Request} (hr : r.isCommand = false)
    (h : ∀ i, decode hasReadc r ≠ .instr i) : decode hasReadc r = .reject .frameNeverEmitted := by
  cases hd : decode hasReadc r with
  | instr i => exact absurd hd (h i)
  | reject q =>
    obtain ⟨w, rfl⟩ | rfl := decode_reject_cases hd
    · exact absurd hr (by simp [Request.isCommand])
    · rfl

theorem readHeaderWord_flag (a : RegAddr) : (readHeaderWord a).getLsbD 4 = false := by
  rw [readHeaderWord, BitVec.getLsbD_append]
  rfl

/-- An unfaulted block refuses frame bits that decode to no instruction. -/
theorem step_of_bad_frame {s : State} {r : Request} {rest : List Request} (hf : s.fault = .noFault)
    (hp : s.port = r :: rest) (hr : r.isCommand = false)
    (h : ∀ i, decode s.cfg.hasReadc r ≠ .instr i) : step s = .refused .frameNeverEmitted :=
  (step_of_request hp).trans (perform_of_bad_frame hf (decode_never_emitted hr h))

/-! ### The invariant of the block between commands -/

/-- Where PARK is left out, SEL ends high (R163). -/
theorem levelsAfterRead_sel (p : Params) :
    (levelsAfterRead p).sel = .low ∨ ((levelsAfterRead p).sel = .high ∧ p.readParks = false) := by
  cases hp : p.readParks <;> simp [levelsAfterRead, hp]

namespace State.Inv

variable {s t : State}

theorem withoutRequest (h : s.Inv) : s.withoutRequest.Inv :=
  ⟨h.atRest, h.binding, h.levels, h.lines, h.fault⟩

/-- A fault is raised only where the binding is what it says (R201 to R204). -/
theorem raiseFault {c : FaultCode} (h : s.Inv) (hf : s.fault = .noFault)
    (hc : c.RaisedWhen s.bound) : (raiseFault c s).Inv := by
  rw [raiseFault_of_unfaulted hf]
  obtain ⟨htrace, -⟩ := h.fault
  refine ⟨h.atRest, h.binding, h.levels, h.lines, htrace, ?_, ?_, ?_⟩
  all_goals
    rintro rfl
    exact hc

/-- INIT of an unbound block makes the binding consistent and drives nothing (R181, R182). -/
theorem bindLines {c e d : LineIdent} (h : s.Inv) (hf : s.fault = .noFault)
    (hce : c ≠ e) (hcd : c ≠ d) (hed : e ≠ d) : (bindLines c e d s).Inv where
  atRest := h.atRest
  binding := by simp [State.BindingConsistent, hce, hcd, hed]
  levels := h.levels
  lines := h.lines
  fault := by simp [State.FaultConsistent, hf]

theorem handToHost (h : s.Inv) (v : RegValue) : (s.handToHost v).Inv :=
  ⟨h.atRest, h.binding, h.levels, h.lines, h.fault⟩

/-- A transaction of a bound block that ends at rest, with the lines at their idle levels. -/
theorem of_transaction {es : List Event} (h : s.Inv) (hb : s.bound = true) (hf : t.fault = .noFault)
    (hbound : t.bound = s.bound) (hid : t.lineId = s.lineId) (hdir : t.lineDir = s.lineDir)
    (hrest : t.AtRest) (htrace : t.trace = s.trace ++ es) (hlevel : t.level = levelsAfter s.level es)
    (hclk : t.level.clk = .low) (hdata : t.level.data = .low)
    (hsel : t.level.sel = .low ∨ (t.level.sel = .high ∧ t.cfg.readParks = false)) (hes : es ≠ []) :
    t.Inv where
  atRest := hrest
  binding := by
    rw [State.BindingConsistent, hbound, hid, hdir]
    exact h.binding
  levels := by
    rw [State.LevelsTraced, hlevel, htrace, levelsAfter_append, ← h.levels]
  lines := ⟨fun hnil => absurd hnil (by simp [htrace, hes]), fun _ => ⟨hclk, hdata, hsel⟩⟩
  fault := by simp [State.FaultConsistent, hbound, hb, hf]

theorem writeTransaction (h : s.Inv) (hf : s.fault = .noFault) (hb : s.bound = true)
    (reg : Payload) : (writeTransaction reg s).Inv := by
  obtain ⟨-, -, hacc⟩ := h.atRest
  rw [writeTransaction_eq]
  exact h.of_transaction hb hf rfl rfl rfl ⟨rfl, rfl, hacc⟩ rfl
    (levelsAfter_writeEvents s.level reg).symm rfl rfl (.inl rfl) (by simp [writeEvents, parkEvents])

/-- A read ends as the invariant asks once its accumulator is dropped, returned before or not. -/
theorem readTransaction_dropAcc (h : s.Inv) (hf : s.fault = .noFault) (hb : s.bound = true)
    (m : ReadMode) (a : RegAddr) : (readTransaction m a s).dropAcc.Inv := by
  rw [readTransaction_eq]
  exact h.of_transaction hb hf rfl rfl rfl ⟨rfl, rfl, rfl⟩ rfl
    (levelsAfter_readEvents s.level a s).symm rfl rfl (levelsAfterRead_sel s.cfg)
    (by simp [readEvents, enableBeginEvents])

theorem of_effect {i : Instr} (h : s.Inv) (he : Effect s i t) : t.Inv := by
  cases he with
  | faulted => exact h
  | raises _ c hf hc => exact h.raiseFault hf hc
  | binds c e d hf _ hce hcd hed => exact h.bindLines hf hce hcd hed
  | encodes f => exact h.handToHost _
  | setf f hf hb => exact h.writeTransaction hf hb _
  | frameWrite reg hf hb => exact h.writeTransaction hf hb reg
  | read a hf hb => exact (h.readTransaction_dropAcc hf hb .latest a).handToHost _
  | readc a hf hb => exact (h.readTransaction_dropAcc hf hb .shifted a).handToHost _
  | frameReadHdr a hf hb => exact h.readTransaction_dropAcc hf hb .latest a

end State.Inv

/-! ### The obligations -/

/-- Settles O51: each effect of a request keeps the invariant. -/
theorem everyStepKeepsTheInvariant : Obligations.EveryStepKeepsTheInvariant := by
  intro s t h hstep
  obtain rfl | ⟨hf, rfl⟩ | ⟨_, _, _, _, _, he⟩ := step_effect hstep
  · exact h.withoutRequest
  · exact h.withoutRequest.raiseFault hf trivial
  · exact h.withoutRequest.of_effect he

/-- Settles O52: at power-up nothing is bound, driven or recorded. -/
theorem powerUpMeetsTheInvariant : Obligations.PowerUpMeetsTheInvariant where
  atRest := ⟨rfl, rfl, rfl⟩
  binding := ⟨fun _ => ⟨rfl, rfl⟩, nofun⟩
  levels := rfl
  lines := ⟨fun _ => rfl, fun h => absurd rfl h⟩
  fault := ⟨fun _ => rfl, nofun, nofun, nofun⟩

/-- Settles O54: no effect writes the parameters, and none touches the requests to come. -/
theorem stepsKeepTheParameters : Obligations.StepsKeepTheParameters :=
  fun _ _ h => ⟨step_cfg h, step_port h⟩

/-- Settles O9: every instruction answers a next state, and so does an illegal word. -/
theorem commandsNeverStopTheMachine : Obligations.CommandsNeverStopTheMachine := by
  intro s w rest hp
  obtain ⟨t, ht⟩ := perform_command_answers w { s with port := rest }
  have hstep : step s = .next t := (step_of_request hp).trans ht
  exact ⟨t, hstep, by rw [step_port hstep, hp, List.tail_cons]⟩

/-- Settles O6: performing a request is executing what it decodes to. -/
theorem stepRunsTheDecodedInstruction : Obligations.StepRunsTheDecodedInstruction :=
  fun _ _ _ _ hp hd => (step_of_request hp).trans (perform_of_instr hd)

/-- Settles O7: with an empty port there is nothing to accept. -/
theorem stepWaitsWithoutARequest : Obligations.StepWaitsWithoutARequest :=
  fun _ => step_of_empty_port

/-- Settles O8: what decodes is a frame word, and frame bits that do not decode have one reason. -/
theorem stepRefusesFramesNeverEmitted : Obligations.StepRefusesFramesNeverEmitted := by
  refine fun s rest hf => ⟨fun f hp hne => ?_, fun h hp hflag => ?_⟩
  · refine step_of_bad_frame hf hp rfl fun i hd => ?_
    obtain ⟨d, -, hword⟩ := decodeWriteFrame_eq_instr hd
    exact hne d hword.symm
  · refine step_of_bad_frame hf hp rfl fun i hd => ?_
    obtain ⟨a, -, rfl⟩ := decodeReadHeader_eq_instr hd
    exact absurd ((readHeaderWord_flag a).symm.trans hflag) Bool.false_ne_true

/-- Settles O15: the frames share the check of the binding with the commands that emit them. -/
theorem framesBeforeInitRaiseNotConstructed : Obligations.FramesBeforeInitRaiseNotConstructed :=
  fun _ hf hb => ⟨fun _ => guarded_of_unbound hf hb, fun _ => guarded_of_unbound hf hb⟩

/-- Settles O17: INIT's effects write the binding or the fault register alone. -/
theorem initFrame : Obligations.InitFrame := by
  intro c e d s t h
  cases effect_of_exec h with
  | faulted | raises | binds => simp

/-- Settles O26: a faulted block is left as it is, an unfaulted one hands one value to the host. -/
theorem encFrame : Obligations.EncFrame := by
  intro f s t h
  by_cases hf : s.fault = .noFault
  · rw [exec_enc_of_unfaulted f hf] at h
    injection h with h
    subst h
    exact ⟨rfl, List.prefix_append _ _⟩
  · rw [exec_of_faulted _ hf] at h
    injection h with h
    subst h
    exact ⟨rfl, List.prefix_rfl⟩

/-- Settles O38: the effects of the two are a fault or a write transaction. -/
theorem writeFrameUnchanged : Obligations.WriteFrameUnchanged := by
  rintro i s t (⟨f, rfl⟩ | ⟨d, rfl⟩) h
  · cases effect_of_exec h with
    | faulted | raises | setf => simp
  · cases effect_of_exec h with
    | faulted | raises | frameWrite => simp

/-- Settles O44: the effects of the three are a fault or a read transaction, whose value READ and READC
alone hand to the host. -/
theorem readFrameUnchanged : Obligations.ReadFrameUnchanged := by
  rintro i s t (⟨a, rfl⟩ | ⟨a, rfl⟩ | ⟨a, rfl⟩) h
  · cases effect_of_exec h with
    | faulted | raises | read => simp
  · cases effect_of_exec h with
    | faulted | raises | readc => simp
  · cases effect_of_exec h with
    | faulted | raises | frameReadHdr => simp

end Sys2Proof.Machine
end

-- Proofs of the statements about the encoder's value, its payload and its round trip (41_encoder.md)
section
/-! PROOFS. The encoder's N, A and raw value by the step k, and from these what the value and its payload
keep of the frequency (41_encoder.md). -/

namespace Sys2Proof.Machine

/-! ### The parts of the value (R122) -/

theorem fractionA_range (f : Int) : 0 ≤ fractionA f ∧ fractionA f ≤ 31 := by
  rw [fractionA_eq_emod]
  omega

/-- k is split into N and A without loss. -/
theorem divisorN_fractionA_eq (f : Int) : divisorN f * 32 + fractionA f = intermediate f := by
  rw [divisorN_eq_ediv, fractionA_eq_emod]
  omega

theorem rawValue_eq_add (f : Int) : rawValue f = intermediate f + 96 * divisorN f := by
  rw [rawValue, ← divisorN_fractionA_eq]
  omega

/-- The reduction to 20 bits leaves the low seven, which hold A. -/
theorem encodeFreq_toNat_mod (f : Int) : (encodeFreq f).toNat % 128 = (fractionA f).toNat := by
  have hvalue := encodeFreq_toNat f
  rw [← rawValue_eq_specRaw, rawValue] at hvalue
  have hA := fractionA_range f
  omega

/-- Bits 5 and 6 are those of a number below 32. -/
theorem encodeFreq_getLsbD_gap (f : Int) {i : Nat} (hi : i = 5 ∨ i = 6) :
    (encodeFreq f).getLsbD i = false := by
  have hA := fractionA_range f
  have hlow := encodeFreq_toNat_mod f
  rw [BitVec.getLsbD, Nat.testBit_eq_decide_div_mod_eq, decide_eq_false_iff_not]
  obtain rfl | rfl := hi <;> omega

/-! ### The payload where it loses nothing (R130) -/

theorem payload_toNat (f : Int) : (payload f).toNat = (encodeFreq f).toNat % 2 ^ 16 := by
  rw [payload, BitVec.extractLsb'_toNat, Nat.shiftRight_zero]

section

variable {f : Int} (hlo : 479 ≤ f) (hhi : f ≤ 33246)

include hlo hhi

/-- Here k < 2^14, so N < 2^9 and the raw value fits 16 bits. -/
theorem specRaw_fits_payload : 0 ≤ specRaw f ∧ specRaw f < 2 ^ 16 := by
  unfold specRaw
  omega

theorem payload_toNat_eq_specRaw : ((payload f).toNat : Int) = specRaw f := by
  obtain ⟨hnonneg, hlt⟩ := specRaw_fits_payload hlo hhi
  have hvalue := encodeFreq_toNat f
  rw [payload_toNat]
  omega

end

/-- The raw value is that of the step k alone, and no other step has it. -/
theorem specRaw_eq_iff (f g : Int) : specRaw f = specRaw g ↔ (f - 479) / 2 = (g - 479) / 2 := by
  unfold specRaw
  omega

theorem specRaw_bounds {f : Int} (hlo : 5345 ≤ f) (hhi : f ≤ 5945) :
    0x2601 ≤ specRaw f ∧ specRaw f ≤ 0x2A8D := by
  unfold specRaw
  omega

/-! ### The obligations -/

/-- Settles O21: A is a remainder by 32, and it alone fills the low seven bits. -/
theorem encodedFractionIsBelow32 : Obligations.EncodedFractionIsBelow32 := by
  intro f
  obtain ⟨hnonneg, hle⟩ := fractionA_range f
  refine ⟨hnonneg, hle, encodeFreq_getLsbD_gap f (.inl rfl), encodeFreq_getLsbD_gap f (.inr rfl), ?_⟩
  have hlow := encodeFreq_toNat_mod f
  omega

/-- Settles O22: N and A give k back, and k drops the last bit of f - 479 alone. -/
theorem encoderRoundTrip : Obligations.EncoderRoundTrip := by
  intro f
  rw [divisorN_fractionA_eq, intermediate_eq_ediv]
  split <;> omega

/-- Settles O23: raw is k + 96 N, and N does not fall where k grows. -/
theorem rawValueGrowsWithTheStep : Obligations.RawValueGrowsWithTheStep := by
  refine ⟨rawValue_eq_add, fun f g _ hlt => ?_⟩
  have hN : divisorN f ≤ divisorN g := by
    rw [divisorN_eq_ediv, divisorN_eq_ediv]
    omega
  rw [rawValue_eq_add, rawValue_eq_add]
  omega

/-- Settles O24: in this range the payload is the raw value, which determines k. -/
theorem payloadsCollideOnlyInPairs : Obligations.PayloadsCollideOnlyInPairs := by
  intro f g hflo hfhi hglo hghi
  rw [← specRaw_eq_iff, ← payload_toNat_eq_specRaw hflo hfhi, ← payload_toNat_eq_specRaw hglo hghi,
    Int.natCast_inj, BitVec.toNat_inj]

/-- Settles O25: the raw value fits 16 bits up to 33246, and the first one that does not is 2^16. -/
theorem payloadCarriesTheWholeValue : Obligations.PayloadCarriesTheWholeValue := by
  obtain ⟨-, hunreduced⟩ := encoderFollowsTheFormula
  refine ⟨fun f hlo hhi => ?_, fun f hlo hhi => ?_, by decide, by decide⟩
  · have hvalue := hunreduced f hlo (by omega)
    have hpayload := payload_toNat_eq_specRaw hlo hhi
    omega
  · have hvalue := hunreduced f (by omega) (by omega)
    have hbounds := specRaw_bounds hlo hhi
    omega

end Sys2Proof.Machine
end

-- Proofs of the statements about the transactions on the wire (42_write.md, 43_read.md)
section
/-! PROOFS. What the observers of Machine/Observer.lean read from the events of a write and of a read: the
bits at both edges, the samples and the first drive of each line; from these the statements about the
transactions (42_write.md, 43_read.md). -/

namespace Sys2Proof.Machine

/-! ### The transactions of a constructed block -/

section

variable {s : State} (hf : s.fault = .noFault) (hb : s.bound = true)

include hf hb

theorem exec_frameWrite_of_constructed (data : Payload) :
    exec (.frameWrite data) s = .next (writeTransaction data s) := guarded_of_bound hf hb

theorem exec_frameReadHdr_of_constructed (a : RegAddr) :
    exec (.frameReadHdr a) s = .next (readTransaction .latest a s).dropAcc := guarded_of_bound hf hb

theorem exec_readc_of_constructed (a : RegAddr) (hr : s.cfg.hasReadc = true) :
    exec (.readc a) s = .next (returnAcc (readTransaction .shifted a s)) :=
  (exec_readc_of_present a hr).trans (guarded_of_bound hf hb)

end

/-! ### The observer at the falling edge (R110) -/

theorem fallingBits_append (lv : PerLine Level) (es fs : List Event) :
    fallingBits lv (es ++ fs) = fallingBits lv es ++ fallingBits (levelsAfter lv es) fs := by
  induction es generalizing lv with
  | nil => rfl
  | cons e es ih =>
    rw [List.cons_append, fallingBits, fallingBits, levelsAfter, ih]
    split <;> rfl

/-- R110: DATA is stable over the pulse, so the fall shows the bit that the rise showed. -/
theorem fallingBits_sendBit {lv : PerLine Level} (hclk : lv.clk ≠ .high) (hsel : lv.sel = .low)
    (b : Bool) : fallingBits lv (sendBitEvents b) = [Level.ofBit b] := by
  simp [sendBitEvents, fallingBits, Event.applyTo, hclk, hsel]

theorem levelsAfter_sendBit_clk (lv : PerLine Level) (b : Bool) :
    (levelsAfter lv (sendBitEvents b)).clk = .low := rfl

theorem fallingBits_sendBits {lv : PerLine Level} (hclk : lv.clk ≠ .high) (hsel : lv.sel = .low)
    (bs : List Bool) : fallingBits lv (bs.flatMap sendBitEvents) = bs.map Level.ofBit := by
  induction bs generalizing lv with
  | nil => rfl
  | cons b bs ih =>
    rw [List.flatMap_cons, fallingBits_append, fallingBits_sendBit hclk hsel,
      ih (by simp [levelsAfter_sendBit_clk]) ((levelsAfter_sendBit_sel lv b).trans hsel)]
    rfl

/-- A write frame shows the observer at the falling edge its 25 bits, where CLK is not high before it. -/
theorem fallingBits_writeEvents {lv : PerLine Level} (hclk : lv.clk ≠ .high) (reg : Payload) :
    fallingBits lv (writeEvents reg) = (writeFrameBits reg).map Level.ofBit := by
  have hbegin : fallingBits lv enableBeginEvents = [] := by
    simp [enableBeginEvents, fallingBits]
  have hbits : levelsAfter (levelsAfter lv enableBeginEvents)
      ((writeFrameBits reg).flatMap sendBitEvents) = PerLine.all .low := rfl
  have hend : fallingBits (PerLine.all .low) (enableEndEvents ++ parkEvents) = [] := by decide
  rw [writeEvents, List.append_assoc, List.append_assoc, fallingBits_append, hbegin,
    fallingBits_append, hbits, hend, fallingBits_sendBits (by exact hclk) rfl]
  simp

/-! ### The frame words, bit by bit (R72, R73) -/

theorem writeFrameWord_toNat (d : Payload) : (writeFrameWord d).toNat = 1 + 16 + d.toNat * 32 := by
  rw [writeFrameWord, BitVec.toNat_append, BitVec.toNat_append, BitVec.toNat_append,
    ← Nat.shiftLeft_add_eq_or_of_lt (by decide), ← Nat.shiftLeft_add_eq_or_of_lt (by decide),
    ← Nat.shiftLeft_add_eq_or_of_lt d.isLt]
  simp only [Nat.shiftLeft_eq, BitVec.toNat_ofNat]
  omega

theorem readHeaderWord_toNat (a : RegAddr) : (readHeaderWord a).toNat = a.toNat := by
  rw [readHeaderWord, BitVec.toNat_append, ← Nat.shiftLeft_add_eq_or_of_lt a.isLt]
  simp

/-- R72: bit t of the frame word goes out at time t. -/
theorem writeFrameWord_getLsbD (d : Payload) {t : Nat} (ht : t < 25) :
    (writeFrameWord d).getLsbD t = specFrameBit d.getLsbD t := by
  rw [writeFrameWord, BitVec.getLsbD_append, BitVec.getLsbD_append, BitVec.getLsbD_append, specFrameBit]
  by_cases haddr : t < 4
  · rw [if_pos haddr, if_pos haddr]
  rw [if_neg haddr, if_neg haddr]
  by_cases hflag : t = 4
  · simp [hflag]
  have hpast : ¬ t - 4 < 1 := by omega
  rw [if_neg hpast, if_neg hflag, Nat.sub_sub]
  by_cases hdata : t < 21
  · rw [if_pos (by omega), if_pos hdata]
  · rw [if_neg (by omega), if_neg hdata, BitVec.getLsbD_zero]

theorem writeFrameBits_eq_frameWordBits (d : Payload) :
    writeFrameBits d = (List.range 25).map (writeFrameWord d).getLsbD := by
  rw [writeFrameBits_eq_specFrameBits]
  exact List.map_congr_left fun t ht => (writeFrameWord_getLsbD d (List.mem_range.mp ht)).symm

theorem readHeaderBits_eq_headerWordBits (a : RegAddr) :
    readHeaderBits a = (List.range 5).map (readHeaderWord a).getLsbD := by
  have haddr : ∀ t < 4, (readHeaderWord a).getLsbD t = a.getLsbD t := fun t ht => by
    rw [readHeaderWord, BitVec.getLsbD_append, if_pos ht]
  rw [List.range_succ, List.map_append, List.map_congr_left fun t ht => haddr t (List.mem_range.mp ht)]
  exact congrArg (_ ++ [·]) (readHeaderWord_flag a).symm

/-! ### The samples of a read (R103) -/

theorem sampledBits_append (es fs : List Event) :
    sampledBits (es ++ fs) = sampledBits es ++ sampledBits fs := by
  induction es with
  | nil => rfl
  | cons e es ih => cases e <;> simp [sampledBits, ih]

theorem sampledBits_sendBits (bs : List Bool) : sampledBits (bs.flatMap sendBitEvents) = [] := by
  induction bs with
  | nil => rfl
  | cons b bs ih => rw [List.flatMap_cons, sampledBits_append, ih]; rfl

theorem sampledBits_recvBits (p : SamplePoint) (f : Nat → Bool) (is : List Nat) :
    sampledBits (is.flatMap fun i => recvBitEvents p (f i)) = is.map f := by
  induction is with
  | nil => rfl
  | cons i is ih => rw [List.flatMap_cons, sampledBits_append, ih]; cases p <;> rfl

theorem sampledBits_readEvents (a : RegAddr) (s : State) :
    sampledBits (readEvents a s) = (List.range 20).map s.sampleAt := by
  have hclosing : sampledBits (enableEndEvents ++ if s.cfg.readParks then parkEvents else []) = [] := by
    split <;> rfl
  have hbegin : sampledBits enableBeginEvents = [] := rfl
  rw [readEvents, List.append_assoc _ enableEndEvents, sampledBits_append, sampledBits_append,
    sampledBits_append, hclosing, hbegin, sampledBits_sendBits, sampledBits_recvBits]
  simp

/-! ### The first drive of each line (R148) -/

/-- A line that an event list leaves `U` is written by none of it. -/
theorem levelsAfter_get_of_not_set {l : Line} {es : List Event} (h : ∀ b, Event.set l b ∉ es)
    (lv : PerLine Level) : (levelsAfter lv es).get l = lv.get l := by
  induction es generalizing lv with
  | nil => rfl
  | cons e es ih =>
    rw [levelsAfter, ih fun b => List.not_mem_of_not_mem_cons (h b)]
    cases e with
    | set m b =>
      exact PerLine.get_set_other lv m l _ fun hml => h b (hml ▸ List.mem_cons_self)
    | dly => rfl
    | smp b => rfl

theorem Level.ofBit_ne_unknown (b : Bool) : Level.ofBit b ≠ .unknown := by
  cases b <;> decide

theorem Event.applyTo_get_ne_unknown {lv : PerLine Level} {l : Line} (h : lv.get l ≠ .unknown)
    (e : Event) : (e.applyTo lv).get l ≠ .unknown := by
  cases e with
  | set m b =>
    by_cases hlm : l = m
    · subst hlm
      exact (PerLine.get_set_same lv l _).symm ▸ Level.ofBit_ne_unknown b
    · exact (PerLine.get_set_other lv m l _ hlm).symm ▸ h
  | dly => exact h
  | smp b => exact h

/-- R24: a driven line is never `U` again. -/
theorem levelsAfter_get_ne_unknown {lv : PerLine Level} {l : Line} (h : lv.get l ≠ .unknown)
    (es : List Event) : (levelsAfter lv es).get l ≠ .unknown := by
  induction es generalizing lv with
  | nil => exact h
  | cons e es ih => exact ih (e.applyTo_get_ne_unknown h)

theorem levelsAfter_set_get_ne_unknown (lv : PerLine Level) (l : Line) (b : Bool) (es : List Event) :
    (levelsAfter lv (.set l b :: es)).get l ≠ .unknown :=
  levelsAfter_get_ne_unknown ((PerLine.get_set_same lv l _).symm ▸ Level.ofBit_ne_unknown b) es

/-- A line is `U` until its first SET, at place `pre.length`, and from then on it is not. -/
theorem levelsAfter_take_unknown_iff {lv : PerLine Level} {l : Line} {pre : List Event}
    (hlv : lv.get l = .unknown) (hpre : ∀ b, Event.set l b ∉ pre) (b : Bool) (post : List Event)
    (n : Nat) :
    (levelsAfter lv ((pre ++ .set l b :: post).take n)).get l = .unknown ↔ n < pre.length + 1 := by
  by_cases hn : n ≤ pre.length
  · rw [List.take_append_of_le_length hn,
      levelsAfter_get_of_not_set fun b hb => hpre b (List.mem_of_mem_take hb)]
    exact iff_of_true hlv (by omega)
  · obtain ⟨k, rfl⟩ : ∃ k, n = pre.length + (k + 1) := ⟨n - pre.length - 1, by omega⟩
    rw [List.take_length_add_append, List.take_succ_cons, levelsAfter_append]
    exact iff_of_false (levelsAfter_set_get_ne_unknown _ _ _ _) (by omega)

theorem writeEvents_begin (reg : Payload) :
    ∃ b rest, writeEvents reg = enableBeginEvents ++ sendBitEvents b ++ rest :=
  ⟨true, _, rfl⟩

theorem readEvents_begin (a : RegAddr) (s : State) :
    ∃ b rest, readEvents a s = enableBeginEvents ++ sendBitEvents b ++ rest :=
  ⟨a.getLsbD 0, _, rfl⟩

/-- Every transaction begins with ENABLE_BEGIN and a SEND_BIT, which drive the three lines. -/
theorem firstDrives_of_events {i : Instr} {s t : State} {es : List Event}
    (hes : ∃ b rest, es = enableBeginEvents ++ sendBitEvents b ++ rest)
    (hs : s.level = { clk := .unknown, sel := .unknown, data := .unknown })
    (hexec : exec i s = .next t) (htrace : t.trace = s.trace ++ es)
    (hlevel : t.level = levelsAfter s.level es) : FirstDrives i s := by
  obtain ⟨b, rest, rfl⟩ := hes
  have hunknown : ∀ l, s.level.get l = .unknown := by
    rw [hs]
    intro l
    cases l <;> rfl
  have hsel := levelsAfter_take_unknown_iff (pre := []) (hunknown .sel) (by simp) true
  have hclk := levelsAfter_take_unknown_iff (pre := enableBeginEvents) (hunknown .clk)
    (by simp [enableBeginEvents]) false
  have hdata := levelsAfter_take_unknown_iff (pre := enableBeginEvents ++ [.set .clk false, .dly])
    (hunknown .data) (by simp [enableBeginEvents]) b
  refine ⟨t, _, hexec, htrace, hlevel, hsel _, hclk _, hdata _, fun l => ?_⟩
  rw [hlevel, levelsAfter_append]
  refine levelsAfter_get_ne_unknown ?_ _
  cases l with
  | clk | sel => exact Level.ofBit_ne_unknown false
  | data => exact Level.ofBit_ne_unknown b

/-! ### The levels and the trace of a transaction -/

@[simp] theorem writeTransaction_level (reg : Payload) (s : State) :
    (writeTransaction reg s).level = levelsAfter s.level (writeEvents reg) := by
  rw [writeTransaction_eq, levelsAfter_writeEvents]

@[simp] theorem readTransaction_level (m : ReadMode) (a : RegAddr) (s : State) :
    (readTransaction m a s).level = levelsAfter s.level (readEvents a s) := by
  rw [readTransaction_eq, levelsAfter_readEvents]

@[simp] theorem returnAcc_level (s : State) : (returnAcc s).level = s.level := rfl

section

variable (m : ReadMode) (a : RegAddr) (s : State)

theorem returnAcc_readTransaction_level :
    (returnAcc (readTransaction m a s)).level = levelsAfter s.level (readEvents a s) :=
  (returnAcc_level _).trans (readTransaction_level m a s)

theorem returnAcc_readTransaction_trace :
    (returnAcc (readTransaction m a s)).trace = s.trace ++ readEvents a s :=
  (returnAcc_trace _).trans (readTransaction_trace m a s)

theorem dropAcc_readTransaction_level :
    (readTransaction m a s).dropAcc.level = levelsAfter s.level (readEvents a s) :=
  (State.dropAcc_level _).trans (readTransaction_level m a s)

theorem dropAcc_readTransaction_trace :
    (readTransaction m a s).dropAcc.trace = s.trace ++ readEvents a s :=
  (State.dropAcc_trace _).trans (readTransaction_trace m a s)

end

/-- An instruction leaves the levels, or drives them through the events of its transaction. -/
theorem Effect.level_cases {i : Instr} {s t : State} (h : Effect s i t) :
    ∃ es, t.level = levelsAfter s.level es := by
  cases h with
  | faulted | binds | encodes => exact ⟨[], rfl⟩
  | raises i c => exact ⟨[], raiseFault_level c s⟩
  | setf f => exact ⟨_, writeTransaction_level _ s⟩
  | frameWrite reg => exact ⟨_, writeTransaction_level reg s⟩
  | read a | readc a => exact ⟨_, returnAcc_readTransaction_level _ a s⟩
  | frameReadHdr a => exact ⟨_, dropAcc_readTransaction_level _ a s⟩

theorem step_level_cases {s t : State} (h : step s = .next t) :
    ∃ es, t.level = levelsAfter s.level es := by
  obtain rfl | ⟨-, rfl⟩ | ⟨_, _, _, _, _, he⟩ := step_effect h
  · exact ⟨[], rfl⟩
  · exact ⟨[], raiseFault_level _ _⟩
  · exact he.level_cases

/-! ### The obligations -/

/-- Settles O33: the frame's events are those of R141, and SETF is the same transaction of its payload. -/
theorem frameWriteSendsItsData : Obligations.FrameWriteSendsItsData := by
  refine ⟨fun d s hf hb => ?_, fun f s => rfl⟩
  rw [exec_frameWrite_of_constructed hf hb, writeTransaction_eq, writeEvents_eq_specWriteTrace]
  rfl

/-- Settles O41: the wire side of a read, whose accumulator is dropped. -/
theorem frameReadHeaderRunsTheReadOnTheWire : Obligations.FrameReadHeaderRunsTheReadOnTheWire := by
  intro a s hf hb
  rw [exec_frameReadHdr_of_constructed hf hb, readTransaction_eq, readEvents_eq_specReadTrace]
  rfl

/-- Settles O35: at either edge the observer reads the 25 bits of the frame word. -/
theorem setfFrameOnBothEdges : Obligations.SetfFrameOnBothEdges := by
  refine ⟨writeFrameWord_toNat, fun f s hf hb hclk => ?_⟩
  refine ⟨_, writeEvents (payload f), exec_setf_of_constructed f hf hb, writeTransaction_trace _ s,
    ?_, ?_⟩
  · rw [risingBits_writeEvents, fallingBits_writeEvents hclk]
  · rw [risingBits_writeEvents, writeFrameBits_eq_frameWordBits, List.map_map]
    rfl

/-- Settles O36: the pair determines the raw value, and with it the payload and the events of its frame. -/
theorem setfEventsDependOnlyOnTheOperand : Obligations.SetfEventsDependOnlyOnTheOperand := by
  intro f g hpair
  have hpayload : payload f = payload g := by
    rw [payload, payload, encodeFreq_eq_ofInt_specRaw, encodeFreq_eq_ofInt_specRaw,
      (specRaw_eq_iff f g).mpr hpair]
  refine ⟨writeEvents (payload f), fun s hf hb => ⟨_, _, exec_setf_of_constructed f hf hb,
    exec_setf_of_constructed g hf hb, writeTransaction_trace _ s, ?_⟩⟩
  rw [writeTransaction_trace, hpayload]

/-- Settles O37: every transaction begins by driving SEL, CLK and DATA at its events 1, 5 and 7, and no
event makes a line `U` again. -/
theorem firstTransactionDrivesTheLines : Obligations.FirstTransactionDrivesTheLines := by
  refine ⟨fun s hf hb hs => ?_, fun s t h l hl => ?_⟩
  · exact ⟨
      fun f => firstDrives_of_events (writeEvents_begin _) hs (exec_setf_of_constructed f hf hb)
        (writeTransaction_trace _ s) (writeTransaction_level _ s),
      fun a => firstDrives_of_events (readEvents_begin a s) hs (exec_read_of_constructed a hf hb)
        (returnAcc_readTransaction_trace _ a s) (returnAcc_readTransaction_level _ a s),
      fun a hr => firstDrives_of_events (readEvents_begin a s) hs (exec_readc_of_constructed hf hb a hr)
        (returnAcc_readTransaction_trace _ a s) (returnAcc_readTransaction_level _ a s),
      fun d => firstDrives_of_events (writeEvents_begin d) hs (exec_frameWrite_of_constructed hf hb d)
        (writeTransaction_trace d s) (writeTransaction_level d s),
      fun a => firstDrives_of_events (readEvents_begin a s) hs (exec_frameReadHdr_of_constructed hf hb a)
        (dropAcc_readTransaction_trace _ a s) (dropAcc_readTransaction_level _ a s)⟩
  · obtain ⟨es, hes⟩ := step_level_cases h
    exact hes ▸ levelsAfter_get_ne_unknown hl es

/-- Settles O42: both play the same events, and bit r of READC's accumulator is sample r. -/
theorem readIsBit19OfReadc : Obligations.ReadIsBit19OfReadc := by
  intro a s hf hb hr
  refine ⟨_, _, accAfter .latest s 20, accAfter .shifted s 20, exec_read_of_constructed a hf hb,
    exec_readc_of_constructed hf hb a hr, ?_, ?_, ?_, ?_, fun r hlt => ?_⟩
  · rw [returnAcc_readTransaction_eq, returnAcc_readTransaction_eq]
  · rw [returnAcc_readTransaction_eq]
  · rw [returnAcc_readTransaction_eq]
  · rw [accAfter_latest, getLsbD_accAfter_shifted]
    cases s.sampleAt 19 <;> rfl
  · rw [getLsbD_accAfter_shifted]
    simp [hlt]

/-- Settles O43: the bits of the header word, then DATA low at the pulses, and one SMP for each pulse. -/
theorem readHeaderOnTheWire : Obligations.ReadHeaderOnTheWire := by
  intro a s hf hb
  refine ⟨_, readEvents a s, exec_read_of_constructed a hf hb, returnAcc_readTransaction_trace _ a s, ?_,
    sampledBits_readEvents a s, readHeaderWord_toNat a⟩
  rw [risingBits_readEvents, readHeaderBits_eq_headerWordBits, List.map_map]
  rfl

end Sys2Proof.Machine
end

-- Proofs of the statements about counts and time (70_reset_and_hazards.md)
section
/-! PROOFS. How many events of each kind a piece of trace has, and the time that its delays take at least;
from these the statements about counts and time (70_reset_and_hazards.md). -/

namespace Sys2Proof.Machine

/-! ### The counts (R250) -/

/-- Every event is of one kind. -/
theorem length_eq_counts (es : List Event) :
    es.length = es.countP Event.isSet + es.countP Event.isDly + es.countP Event.isSmp := by
  induction es with
  | nil => rfl
  | cons e es ih =>
    rw [List.length_cons, ih, List.countP_cons, List.countP_cons, List.countP_cons]
    cases e with
    | set l b | dly | smp b =>
      simp only [Event.isSet, Event.isDly, Event.isSmp, if_true, Bool.false_eq_true, if_false]
      omega

/-- A piece of so many events of each kind. -/
def HasCounts (es : List Event) (sets dlys smps : Nat) : Prop :=
  es.countP Event.isSet = sets ∧ es.countP Event.isDly = dlys ∧ es.countP Event.isSmp = smps

theorem HasCounts.append {es fs : List Event} {a b c a' b' c' : Nat} (h : HasCounts es a b c)
    (h' : HasCounts fs a' b' c') : HasCounts (es ++ fs) (a + a') (b + b') (c + c') := by
  obtain ⟨hset, hdly, hsmp⟩ := h
  obtain ⟨hset', hdly', hsmp'⟩ := h'
  simp [HasCounts, *]

theorem HasCounts.flatMap {α : Type} {f : α → List Event} {a b c : Nat}
    (h : ∀ x, HasCounts (f x) a b c) (xs : List α) :
    HasCounts (xs.flatMap f) (xs.length * a) (xs.length * b) (xs.length * c) := by
  induction xs with
  | nil => simp [HasCounts]
  | cons x xs ih =>
    simp only [List.flatMap_cons, List.length_cons, Nat.add_one_mul, Nat.add_comm _ a,
      Nat.add_comm _ b, Nat.add_comm _ c]
    exact (h x).append ih

theorem hasCounts_sendBit (b : Bool) : HasCounts (sendBitEvents b) 4 4 0 := ⟨rfl, rfl, rfl⟩

theorem hasCounts_recvBit (p : SamplePoint) (b : Bool) : HasCounts (recvBitEvents p b) 3 3 1 := by
  cases p with
  | endOfHigh | afterFall => exact ⟨rfl, rfl, rfl⟩

theorem hasCounts_enableBegin : HasCounts enableBeginEvents 2 2 0 := ⟨rfl, rfl, rfl⟩

theorem hasCounts_enableEnd : HasCounts enableEndEvents 1 1 0 := ⟨rfl, rfl, rfl⟩

theorem hasCounts_park : HasCounts parkEvents 3 0 0 := ⟨rfl, rfl, rfl⟩

theorem hasCounts_writeEvents (reg : Payload) : HasCounts (writeEvents reg) 106 103 0 :=
  ((hasCounts_enableBegin.append (.flatMap hasCounts_sendBit (writeFrameBits reg))).append
    hasCounts_enableEnd).append hasCounts_park

theorem hasCounts_readEvents (a : RegAddr) (s : State) :
    HasCounts (readEvents a s) (if s.cfg.readParks then 86 else 83) 83 20 := by
  have hread := ((hasCounts_enableBegin.append (.flatMap hasCounts_sendBit (readHeaderBits a))).append
    (.flatMap (fun r => hasCounts_recvBit s.cfg.samplePoint (s.sampleAt r)) (List.range 20))).append
    hasCounts_enableEnd
  unfold readEvents
  cases s.cfg.readParks with
  | true => exact hread.append hasCounts_park
  | false => exact hread.append (fs := []) ⟨rfl, rfl, rfl⟩

theorem appendsCounts_of_events {i : Instr} {s t : State} {es : List Event} {a b c : Nat}
    (hexec : exec i s = .next t) (htrace : t.trace = s.trace ++ es) (h : HasCounts es a b c) :
    AppendsCounts i s a b c := by
  obtain ⟨hset, hdly, hsmp⟩ := h
  exact ⟨t, es, hexec, htrace, by rw [length_eq_counts, hset, hdly, hsmp], hset, hdly, hsmp⟩

/-- An instruction that answers a state with the trace it found. -/
theorem appendsCounts_none {i : Instr} {s t : State} (hexec : exec i s = .next t)
    (htrace : t.trace = s.trace) : AppendsCounts i s 0 0 0 :=
  appendsCounts_of_events hexec (htrace.trans (List.append_nil _).symm) ⟨rfl, rfl, rfl⟩

/-! ### The duration (R244, R245) -/

theorem leastDuration_cons (e : Event) (es : List Event) :
    leastDuration (e :: es) = (if e.isDly then Config.tDelay else 0) + leastDuration es := by
  rw [leastDuration, leastDuration, List.countP_cons]
  split <;> simp [Nat.add_mul, Nat.add_comm]

/-- Without stretch a piece of trace lasts its least duration. -/
theorem duration_of_unstretched {stretch : Nat → Nat} {k : Nat} (h : ∀ i, k ≤ i → stretch i = 0)
    (es : List Event) : duration stretch k es = leastDuration es := by
  induction es generalizing k with
  | nil => simp [duration, leastDuration]
  | cons e es ih =>
    rw [duration, ih fun i hi => h i (by omega), eventDuration, h k le_rfl, leastDuration_cons,
      Nat.add_zero]

theorem leastDuration_le_duration (stretch : Nat → Nat) (k : Nat) (es : List Event) :
    leastDuration es ≤ duration stretch k es := by
  induction es generalizing k with
  | nil => simp [duration, leastDuration]
  | cons e es ih =>
    rw [duration, leastDuration_cons, eventDuration]
    have htail := ih (k + 1)
    omega

/-- The stretch by `m` of the event at place `k` alone. -/
def stretchAt (k m : Nat) : Nat → Nat := fun i => if i = k then m else 0

theorem duration_stretchAt (k m : Nat) (e : Event) (es : List Event) :
    duration (stretchAt k m) k (e :: es) = leastDuration (e :: es) + m := by
  have htail : duration (stretchAt k m) (k + 1) es = leastDuration es :=
    duration_of_unstretched (fun i hi => if_neg (by omega)) es
  have hfirst : stretchAt k m k = m := if_pos rfl
  rw [duration, htail, eventDuration, hfirst, leastDuration_cons]
  omega

theorem leastDuration_writeEvents (reg : Payload) :
    leastDuration (writeEvents reg) = 103 * Config.tDelay := by
  obtain ⟨-, hdly, -⟩ := hasCounts_writeEvents reg
  rw [leastDuration, hdly]

/-! ### The obligations -/

/-- Settles O45: the counts of the two transactions, and no event of INIT or ENC on any path. -/
theorem commandsAppendTheirEventCounts : Obligations.CommandsAppendTheirEventCounts := by
  refine ⟨fun s hf hb => ⟨fun f => ?_, fun a => ?_, fun a hr => ?_, fun d => ?_, fun a => ?_⟩,
    fun s => ⟨fun c e d => ?_, fun f => ?_⟩⟩
  · exact appendsCounts_of_events (exec_setf_of_constructed f hf hb) (writeTransaction_trace _ s)
      (hasCounts_writeEvents _)
  · exact appendsCounts_of_events (exec_read_of_constructed a hf hb)
      (returnAcc_readTransaction_trace _ a s) (hasCounts_readEvents a s)
  · exact appendsCounts_of_events (exec_readc_of_constructed hf hb a hr)
      (returnAcc_readTransaction_trace _ a s) (hasCounts_readEvents a s)
  · exact appendsCounts_of_events (exec_frameWrite_of_constructed hf hb d) (writeTransaction_trace d s)
      (hasCounts_writeEvents d)
  · exact appendsCounts_of_events (exec_frameReadHdr_of_constructed hf hb a)
      (dropAcc_readTransaction_trace _ a s) (hasCounts_readEvents a s)
  · obtain ⟨t, ht⟩ := exec_answers (.init c e d) s
    obtain ⟨-, htrace, -⟩ := initFrame c e d s t ht
    exact appendsCounts_none ht htrace
  · obtain ⟨t, ht⟩ := exec_answers (.enc f) s
    obtain ⟨hkeep, -⟩ := encFrame f s t ht
    exact appendsCounts_none ht (congrArg State.trace hkeep :)

/-- Settles O46: stretching the first event alone reaches every longer duration, and a write has 103
delays. -/
theorem delaysBoundTheDurationBelow : Obligations.DelaysBoundTheDurationBelow := by
  refine ⟨leastDuration_le_duration, fun k e es n hn => ?_, fun f s hf hb => ?_⟩
  · refine ⟨stretchAt k (n - leastDuration (e :: es)), ?_⟩
    rw [duration_stretchAt]
    omega
  · refine ⟨_, writeEvents (payload f), exec_setf_of_constructed f hf hb, writeTransaction_trace _ s,
      fun stretch => ?_⟩
    rw [← leastDuration_writeEvents (payload f)]
    exact leastDuration_le_duration stretch _ _

end Sys2Proof.Machine
end

-- Proofs of the statements about the sequencer and the transactions (10_state.md, 44_construction.md)
section
/-! PROOFS. A phase that counts bits is passed through by one tick for each iteration of its field; from this
the sequencer is the transactions' pseudocode, and its lines are low where a frame says so. -/

namespace Sys2Proof.Machine

/-! ### Runs of ticks -/

theorem runTicks_add (x : Transaction) (m n : Nat) (s : State) :
    runTicks x (m + n) s = runTicks x n (runTicks x m s) := by
  induction m generalizing s with
  | zero => rw [Nat.zero_add]; rfl
  | succ m ih => rw [Nat.add_right_comm, runTicks, ih, runTicks]

theorem runTicks_succ (x : Transaction) (n : Nat) (s : State) :
    runTicks x (n + 1) s = tick x (runTicks x n s) := runTicks_add x n 1 s

/-! ### The fields of a transaction as iterations (R27) -/

/-- n iterations of f from index k on. -/
def iterateFrom (f : Nat → State → State) : Nat → Nat → State → State
  | _, 0, s => s
  | k, n + 1, s => iterateFrom f (k + 1) n (f k s)

/-- What an iteration of a field sends: bit k of v. -/
def sendBitAt {m : Nat} (v : BitVec m) (k : Nat) (s : State) : State :=
  sendBit (v.getLsbD k) (s.atBit k)

theorem sendBitsFrom_eq_iterateFrom {m : Nat} (v : BitVec m) (k n : Nat) (s : State) :
    sendBitsFrom v k n s = iterateFrom (sendBitAt v) k n s := by
  induction n generalizing k s with
  | zero => rfl
  | succ n ih => exact ih (k + 1) _

theorem receiveFrom_eq_iterateFrom (m : ReadMode) (k n : Nat) (s : State) :
    receiveFrom m k n s = iterateFrom (receiveAt m) k n s := by
  induction n generalizing k s with
  | zero => rfl
  | succ n ih => exact ih (k + 1) _

/-- An iteration stays in its phase, leaves `j` at its index and writes the index itself. -/
structure IsIteration (f : Nat → State → State) : Prop where
  phase (k : Nat) (s : State) : (f k s).phase = s.phase
  index (k : Nat) (s : State) : (f k s).j = some k
  atBit (k : Nat) (s : State) : f k (s.atBit k) = f k s

theorem isIteration_sendBitAt {m : Nat} (v : BitVec m) : IsIteration (sendBitAt v) where
  phase _ _ := sendBit_phase _ _
  index _ _ := sendBit_j _ _
  atBit _ _ := rfl

theorem isIteration_receiveAt (m : ReadMode) : IsIteration (receiveAt m) where
  phase := receiveAt_phase m
  index := receiveAt_j m
  atBit _ _ := rfl

theorem iterateFrom_atBit {f : Nat → State → State} (hf : IsIteration f) (k n : Nat) (s : State) :
    iterateFrom f k (n + 1) (s.atBit k) = iterateFrom f k (n + 1) s := by
  rw [iterateFrom, iterateFrom, hf.atBit]

section

variable {x : Transaction} {p : Phase} {f : Nat → State → State}

theorem advance_within {s : State} (h : s.j.getD 0 + 1 < s.phase.fieldLength) :
    advance x s = s.atBit (s.j.getD 0 + 1) := if_pos h

theorem advance_past {s : State} (h : ¬ s.j.getD 0 + 1 < s.phase.fieldLength) :
    advance x s = enterPhase (x.nextPhase s.phase) s := if_neg h

/-- From index k on, each tick is one iteration, and the last one enters the next phase. -/
theorem runTicks_iterateFrom (hf : IsIteration f)
    (htick : ∀ k s, s.phase = p → s.j = some k → k < p.fieldLength → tick x s = advance x (f k s))
    (n k : Nat) (s : State) (hp : s.phase = p) (hj : s.j = some k)
    (hn : k + (n + 1) = p.fieldLength) :
    runTicks x (n + 1) s = enterPhase (x.nextPhase p) (iterateFrom f k (n + 1) s) := by
  have hphase : (f k s).phase = p := (hf.phase k s).trans hp
  have hindex : (f k s).j.getD 0 = k := by rw [hf.index]; rfl
  induction n generalizing k s with
  | zero =>
    rw [runTicks, htick k s hp hj (by omega), advance_past (by rw [hindex, hphase]; omega), hphase]
    rfl
  | succ n ih =>
    rw [runTicks, htick k s hp hj (by omega), advance_within (by rw [hindex, hphase]; omega), hindex,
      ih (k + 1) ((f k s).atBit (k + 1)) hphase rfl (by omega) ((hf.phase _ _).trans hphase)
        (by rw [hf.index]; rfl),
      iterateFrom_atBit hf]
    rfl

/-- A phase that counts bits, from its entry to the entry of the next. -/
theorem runTicks_field (hf : IsIteration f)
    (htick : ∀ k s, s.phase = p → s.j = some k → k < p.fieldLength → tick x s = advance x (f k s))
    (n : Nat) (s : State) (hj : p.firstIndex = some 0) (hn : p.fieldLength = n + 1) :
    runTicks x (n + 1) (enterPhase p s)
      = enterPhase (x.nextPhase p) (iterateFrom f 0 (n + 1) (enterPhase p s)) := by
  have hpos := enterPhase_position p s
  rw [Phase.entry, hj] at hpos
  obtain ⟨hphase, hindex⟩ := Prod.mk.inj hpos
  exact runTicks_iterateFrom hf htick n 0 _ hphase hindex (by omega)

theorem enterPhase_of_ne (hp : p ≠ .receivingData) (s : State) : enterPhase p s = s.enter p :=
  if_neg hp

/-- A phase that sends a field of w bits. -/
theorem runTicks_sendField {m : Nat} {v : BitVec m}
    (htick : ∀ k s, s.phase = p → s.j = some k → k < p.fieldLength →
      tick x s = advance x (sendBitAt v k s))
    (n : Nat) (s : State) (hj : p.firstIndex = some 0) (hn : p.fieldLength = n + 1)
    (hp : p ≠ .receivingData) :
    runTicks x (n + 1) (enterPhase p s)
      = enterPhase (x.nextPhase p) (sendField v (n + 1) (s.enter p)) := by
  rw [runTicks_field (isIteration_sendBitAt v) htick n s hj hn, enterPhase_of_ne hp,
    ← sendBitsFrom_eq_iterateFrom, sendField]

end

/-! ### The ticks of each phase -/

/-- With `j` at index k, the state is at bit k. -/
theorem atBit_eq_self {s : State} {k : Nat} (hj : s.j = some k) : s.atBit k = s := by
  cases s
  subst hj
  rfl

theorem sendBitAt_of_index {m : Nat} (v : BitVec m) {s : State} {k : Nat} (hj : s.j = some k) :
    sendBitAt v k s = sendBit (v.getLsbD k) s := by
  rw [sendBitAt, atBit_eq_self hj]

section

variable {x : Transaction} {s : State} {k : Nat} (hj : s.j = some k)

include hj

theorem tick_transmittingAddress (hp : s.phase = .transmittingAddress) :
    tick x s = advance x (sendBitAt x.addr k s) := by
  rw [sendBitAt_of_index _ hj]
  simp [tick, hp, hj]

/-- The flag is a field of one bit. -/
theorem tick_transmittingRWFlag (hp : s.phase = .transmittingRWFlag) (hk : k < 1) :
    tick x s = advance x (sendBitAt (BitVec.ofBool x.flag) k s) := by
  rw [sendBitAt_of_index _ hj]
  simp [tick, hp, Nat.lt_one_iff.mp hk]

theorem tick_transmittingData (reg : Payload) (hp : s.phase = .transmittingData) :
    tick (.write reg) s = advance (.write reg) (sendBitAt reg k s) := by
  rw [sendBitAt_of_index _ hj]
  simp [tick, hp, hj]

theorem tick_receivingData (m : ReadMode) (a : RegAddr) (hp : s.phase = .receivingData) :
    tick (.read m a) s = advance (.read m a) (receiveAt m k s) := by
  simp [tick, hp, hj]

/-- The padding is a field of zeros. -/
theorem tick_transmittingPadding (hp : s.phase = .transmittingPadding) :
    tick x s = advance x (sendBitAt 0#4 k s) := by
  rw [sendBitAt_of_index _ hj]
  simp [tick, hp]

end

/-! ### The ticks of each field -/

section

variable (x : Transaction) (s : State)

theorem runTicks_address :
    runTicks x 4 (enterPhase .transmittingAddress s)
      = enterPhase .transmittingRWFlag (sendField x.addr 4 (s.enter .transmittingAddress)) :=
  runTicks_sendField (fun _ _ hp hj _ => tick_transmittingAddress hj hp) 3 s rfl rfl (by decide)

theorem runTicks_flag :
    runTicks x 1 (enterPhase .transmittingRWFlag s)
      = enterPhase (x.nextPhase .transmittingRWFlag)
          (sendField (BitVec.ofBool x.flag) 1 (s.enter .transmittingRWFlag)) :=
  runTicks_sendField (fun _ _ hp hj hk => tick_transmittingRWFlag hj hp hk) 0 s rfl rfl (by decide)

theorem runTicks_data (reg : Payload) :
    runTicks (.write reg) 16 (enterPhase .transmittingData s)
      = enterPhase .transmittingPadding (sendField reg 16 (s.enter .transmittingData)) :=
  runTicks_sendField (fun _ _ hp hj _ => tick_transmittingData hj reg hp) 15 s rfl rfl (by decide)

theorem runTicks_padding :
    runTicks x 4 (enterPhase .transmittingPadding s)
      = enterPhase .enableDeasserting (sendField 0#4 4 (s.enter .transmittingPadding)) :=
  runTicks_sendField (fun _ _ hp hj _ => tick_transmittingPadding hj hp) 3 s rfl rfl (by decide)

theorem runTicks_receive (m : ReadMode) (a : RegAddr) :
    runTicks (.read m a) 20 (enterPhase .receivingData s)
      = enterPhase .enableDeasserting (receiveFrom m 0 20 ((s.enter .receivingData).setAcc 0)) := by
  rw [receiveFrom_eq_iterateFrom]
  exact runTicks_field (isIteration_receiveAt m)
    (fun _ _ hp hj _ => tick_receivingData hj m a hp) 19 s rfl rfl

/-- What every transaction begins with: ENABLE_BEGIN, the address and the flag. -/
def headerSent : State :=
  let s := enableBegin (s.enter .enableAsserting)
  let s := sendField x.addr 4 (s.enter .transmittingAddress)
  sendField (BitVec.ofBool x.flag) 1 (s.enter .transmittingRWFlag)

theorem runTicks_header :
    runTicks x 6 (startTransaction s)
      = enterPhase (x.nextPhase .transmittingRWFlag) (headerSent x s) := by
  have hbegin : runTicks x 1 (startTransaction s)
      = enterPhase .transmittingAddress (enableBegin (startTransaction s)) := rfl
  rw [runTicks_add x 1 5, hbegin, runTicks_add x 4 1, runTicks_address, runTicks_flag]
  rfl

/-- The last tick. -/
theorem runTicks_closing :
    runTicks x 1 (enterPhase .enableDeasserting s)
      = (closeTransaction x (s.enter .enableDeasserting)).enter .idle := by
  have hlast : ¬ (closeTransaction x (s.enter .enableDeasserting)).j.getD 0 + 1
      < (closeTransaction x (s.enter .enableDeasserting)).phase.fieldLength := by
    rw [closeTransaction_phase]
    exact Nat.not_lt_zero _
  have htick : runTicks x 1 (enterPhase .enableDeasserting s)
      = advance x (closeTransaction x (s.enter .enableDeasserting)) := rfl
  rw [htick, advance_past hlast, closeTransaction_phase]
  rfl

end

/-- A write up to its closing bracket. -/
theorem runTicks_write_open (reg : Payload) (s : State) :
    runTicks (.write reg) 26 (startTransaction s)
      = enterPhase .enableDeasserting (sendField 0#4 4
          ((sendField reg 16 ((headerSent (.write reg) s).enter .transmittingData)).enter
            .transmittingPadding)) := by
  have hdata : (Transaction.write reg).nextPhase .transmittingRWFlag = .transmittingData := rfl
  rw [runTicks_add _ 6 20, runTicks_header, hdata, runTicks_add _ 16 4, runTicks_data,
    runTicks_padding]

theorem runTicks_write (reg : Payload) (s : State) :
    runTicks (.write reg) 27 (startTransaction s) = writeTransaction reg s := by
  rw [runTicks_add _ 26 1, runTicks_write_open, runTicks_closing]
  rfl

theorem runTicks_read (m : ReadMode) (a : RegAddr) (s : State) :
    runTicks (.read m a) 27 (startTransaction s) = readTransaction m a s := by
  have hreceive : (Transaction.read m a).nextPhase .transmittingRWFlag = .receivingData := rfl
  rw [runTicks_add _ 6 21, runTicks_header, hreceive, runTicks_add _ 20 1, runTicks_receive,
    runTicks_closing]
  rfl

/-! ### The lines at the tick boundaries (R111, R143, R165) -/

theorem enterPhase_level (p : Phase) (s : State) : (enterPhase p s).level = s.level := by
  unfold enterPhase
  split <;> rfl

/-- Advancing drives no line. -/
theorem advance_level (x : Transaction) (s : State) : (advance x s).level = s.level := by
  unfold advance
  split
  next => rfl
  next => exact enterPhase_level _ s

theorem receiveAt_level (m : ReadMode) (r : Nat) (s : State) :
    (receiveAt m r s).level = { s.level with clk := .low } := by
  rw [receiveAt_eq_play]
  exact levelsAfter_recvBit _ _ _

theorem closeTransaction_level_cases (x : Transaction) (s : State) :
    (closeTransaction x s).level = PerLine.all .low
    ∨ (closeTransaction x s).level = { s.level with sel := .high } := by
  unfold closeTransaction
  split
  next => exact .inl rfl
  next =>
    split
    next => exact .inl rfl
    next => exact .inr rfl

/-- The phases that send bits. -/
def Phase.sends : Phase → Bool
  | .transmittingAddress | .transmittingRWFlag | .transmittingData | .transmittingPadding => true
  | .idle | .enableAsserting | .receivingData | .enableDeasserting => false

theorem sendBit_level (b : Bool) (s : State) :
    (sendBit b s).level = { clk := .low, sel := s.level.sel, data := Level.ofBit b } := rfl

/-- What one tick does to the lines: nothing where it stops, ENABLE_BEGIN, one bit sent, one received, or
the closing bracket. -/
theorem tick_level_cases (x : Transaction) (s : State) :
    (tick x s).level = s.level
    ∨ (s.phase = .enableAsserting ∧ (tick x s).level = { s.level with sel := .low })
    ∨ (s.phase.sends = true
      ∧ ∃ b, (tick x s).level = { clk := .low, sel := s.level.sel, data := Level.ofBit b })
    ∨ (s.phase = .receivingData ∧ (tick x s).level = { s.level with clk := .low })
    ∨ (s.phase = .enableDeasserting ∧ ((tick x s).level = PerLine.all .low
      ∨ (tick x s).level = { s.level with sel := .high })) := by
  unfold tick
  cases hp : s.phase with
  | idle => exact .inl rfl
  | enableAsserting => exact .inr (.inl ⟨rfl, advance_level _ _⟩)
  | transmittingAddress | transmittingRWFlag | transmittingPadding =>
    exact .inr (.inr (.inl ⟨rfl, _, (advance_level _ _).trans (sendBit_level _ s)⟩))
  | transmittingData =>
    cases x with
    | write reg => exact .inr (.inr (.inl ⟨rfl, _, (advance_level _ _).trans (sendBit_level _ s)⟩))
    | read m a => exact .inl rfl
  | receivingData =>
    cases x with
    | write reg => exact .inl rfl
    | read m a =>
      exact .inr (.inr (.inr (.inl ⟨rfl, (advance_level _ _).trans (receiveAt_level m _ s)⟩)))
  | enableDeasserting =>
    have hlevel := advance_level x (closeTransaction x s)
    exact .inr (.inr (.inr (.inr ⟨rfl, hlevel ▸ closeTransaction_level_cases x s⟩)))

/-- Only the closing bracket raises SEL. -/
theorem tick_sel_low {x : Transaction} {s : State} (hp : s.phase ≠ .enableDeasserting)
    (hsel : s.level.sel = .low) : (tick x s).level.sel = .low := by
  obtain h | ⟨-, h⟩ | ⟨-, b, h⟩ | ⟨-, h⟩ | ⟨hclose, -⟩ := tick_level_cases x s
  · rw [h, hsel]
  · rw [h]
  · rw [h, hsel]
  · rw [h, hsel]
  · exact absurd hclose hp

/-- R111: every primitive leaves CLK low or as it was. -/
theorem tick_clk_low {x : Transaction} {s : State} (hclk : s.level.clk = .low) :
    (tick x s).level.clk = .low := by
  obtain h | ⟨-, h⟩ | ⟨-, b, h⟩ | ⟨-, h⟩ | ⟨-, h | h⟩ := tick_level_cases x s
  · rw [h, hclk]
  · rw [h, hclk]
  · rw [h]
  · rw [h]
  · rw [h]; rfl
  · rw [h, hclk]

/-- The last bit is sent and it was 0: DATA is low, and only receiving and closing are to come. -/
structure DataReleased (s : State) : Prop where
  data : s.level.data = .low
  phase : s.phase = .receivingData ∨ s.phase = .enableDeasserting ∨ s.phase = .idle

theorem tick_phase (x : Transaction) (s : State) :
    (tick x s).phase = (x.nextPosition s.position).1 := congrArg Prod.fst (tick_position x s)

theorem dataReleased_tick {x : Transaction} {s : State} (h : DataReleased s) :
    DataReleased (tick x s) := by
  obtain ⟨hdata, hphase⟩ := h
  refine ⟨?_, ?_⟩
  · obtain h | ⟨-, h⟩ | ⟨hsends, -⟩ | ⟨-, h⟩ | ⟨-, h | h⟩ := tick_level_cases x s
    · rw [h, hdata]
    · rw [h, hdata]
    · obtain hp | hp | hp := hphase <;> exact absurd (hp ▸ hsends) (by decide)
    · rw [h, hdata]
    · rw [h]; rfl
    · rw [h, hdata]
  · rw [tick_phase, State.position, Transaction.nextPosition]
    obtain hp | hp | hp := hphase
    · rw [hp]
      split
      · split
        · exact .inl rfl
        · exact .inr (.inl rfl)
      · exact .inl rfl
    · rw [hp]
      exact .inr (.inr rfl)
    · rw [hp]
      exact .inr (.inr rfl)

/-- What holds after m ticks and is kept by each holds from then on. -/
theorem runTicks_of_tick {x : Transaction} {s : State} {P : State → Prop} {m n : Nat} (hmn : m ≤ n)
    (hm : P (runTicks x m s)) (htick : ∀ {u : State}, P u → P (tick x u)) : P (runTicks x n s) := by
  induction n, hmn using Nat.le_induction with
  | base => exact hm
  | succ n _ ih => exact runTicks_succ x n s ▸ htick ih

/-- The closing bracket comes at the 27th tick. -/
theorem phase_ne_enableDeasserting (x : Transaction) (s : State) {n : Nat} (hn : n < 26) :
    (runTicks x n (startTransaction s)).phase ≠ .enableDeasserting := by
  have hopen : ∀ p ∈ (List.iterate x.nextPosition Phase.enableAsserting.entry 28).take 26,
      p.1 ≠ .enableDeasserting := by
    cases x with
    | write reg => rw [write_positions]; decide
    | read m a => rw [read_positions]; decide
  refine hopen (runTicks x n (startTransaction s)).position ?_
  rw [← positions_eq_iterate x 28 s, ← List.map_take, List.take_range]
  exact List.mem_map_of_mem (List.mem_range.mpr hn)

theorem runTicks_sel_low (x : Transaction) (s : State) {n : Nat} (hlo : 1 ≤ n) (hhi : n ≤ 26) :
    (runTicks x n (startTransaction s)).level.sel = .low := by
  induction n, hlo using Nat.le_induction with
  | base => rfl
  | succ n _ ih =>
    rw [runTicks_succ]
    exact tick_sel_low (phase_ne_enableDeasserting x s (by omega)) (ih (by omega))

/-- The flag is the header's last bit. -/
theorem headerSent_data (x : Transaction) (s : State) :
    (headerSent x s).level.data = Level.ofBit x.flag := by
  unfold headerSent
  cases x.flag <;> rfl

theorem dataReleased_read (m : ReadMode) (a : RegAddr) (s : State) :
    DataReleased (runTicks (.read m a) 6 (startTransaction s)) := by
  rw [runTicks_header]
  exact ⟨(congrArg PerLine.data (enterPhase_level _ _)).trans (headerSent_data _ s), .inl rfl⟩

theorem dataReleased_write (reg : Payload) (s : State) :
    DataReleased (runTicks (.write reg) 26 (startTransaction s)) := by
  rw [runTicks_write_open]
  exact ⟨rfl, .inr (.inl rfl)⟩

/-! ### The obligations -/

/-- Settles O48: field by field, the ticks are the iterations of the pseudocode. -/
theorem sequencerRefinesTheTransactions : Obligations.SequencerRefinesTheTransactions := by
  refine ⟨runTicks_write, runTicks_read, fun s hf hb => ⟨fun f => ?_, fun a => ?_, fun a hr => ?_⟩⟩
  · rw [runTicks_write, exec_setf_of_constructed f hf hb]
  · rw [runTicks_read, exec_read_of_constructed a hf hb]
  · rw [runTicks_read, exec_readc_of_constructed hf hb a hr]

/-- Settles O49: each of the three holds from its first tick on, and every tick keeps it; for SEL up to the
closing bracket. -/
theorem selectIsLowInsideTheFrame : Obligations.SelectIsLowInsideTheFrame := by
  intro x s n
  have hread : 6 ≤ n → (∃ m a, x = .read m a) →
      (runTicks x n (startTransaction s)).level.data = .low := by
    rintro hn ⟨m, a, rfl⟩
    exact (runTicks_of_tick hn (dataReleased_read m a s) dataReleased_tick).data
  refine ⟨runTicks_sel_low x s, fun hn => ?_, hread, fun hn => ?_⟩
  · exact runTicks_of_tick (P := fun u => u.level.clk = .low) hn rfl tick_clk_low
  · cases x with
    | write reg => exact (runTicks_of_tick hn (dataReleased_write reg s) dataReleased_tick).data
    | read m a => exact hread (by omega) ⟨m, a, rfl⟩

end Sys2Proof.Machine
end

-- Proofs of the statements about the assembler (30_encoding.md R86)
section
/-! PROOFS. What a line is taken apart into, what each operand text reads as, and what the mnemonics make of
the operands; from these the statements about the assembler (30_encoding.md R86). -/

namespace Sys2Proof.Machine

/-! ### Text without blank, comma or semicolon -/

theorem PlainText.isBlank {cs : List Char} (h : PlainText cs) : ∀ c ∈ cs, isBlank c = false := by
  intro c hc
  obtain ⟨hspace, htab, -, -⟩ := h c hc
  simp [Machine.isBlank, hspace, htab]

theorem PlainText.ne_comma {cs : List Char} (h : PlainText cs) : ',' ∉ cs := by
  intro hc
  obtain ⟨-, -, hcomma, -⟩ := h _ hc
  exact hcomma rfl

theorem PlainText.ne_semicolon {cs : List Char} (h : PlainText cs) : ';' ∉ cs := by
  intro hc
  obtain ⟨-, -, -, hsemi⟩ := h _ hc
  exact hsemi rfl

/-! ### Blanks around a text -/

theorem trimBlanks_eq_rdropWhile (cs : List Char) :
    trimBlanks cs = (cs.dropWhile isBlank).rdropWhile isBlank := rfl

theorem dropWhile_eq_self_of_head {p : Char → Bool} {c : Char} (hc : p c = false) (cs : List Char) :
    (c :: cs).dropWhile p = c :: cs := by
  rw [List.dropWhile_cons, if_neg (by simp [hc])]

/-- Where nothing is dropped from the end of a text, only what follows it is dropped. -/
theorem rdropWhile_append {p : Char → Bool} {cs : List Char} (h : cs.rdropWhile p = cs)
    (rest : List Char) : (cs ++ rest).rdropWhile p = cs ++ rest.rdropWhile p := by
  induction rest using List.reverseRecOn with
  | nil => rw [List.append_nil, List.rdropWhile_nil, List.append_nil, h]
  | append_singleton rest c ih =>
    rw [← List.append_assoc]
    by_cases hc : p c = true
    · rw [List.rdropWhile_concat_pos _ _ _ hc, List.rdropWhile_concat_pos _ _ _ hc, ih]
    · rw [List.rdropWhile_concat_neg _ _ _ hc, List.rdropWhile_concat_neg _ _ _ hc, List.append_assoc]

theorem PlainText.rdropWhile_append_eq_self {op : List Char} (h : PlainText op) (hne : op ≠ [])
    (pre : List Char) : (pre ++ op).rdropWhile Machine.isBlank = pre ++ op := by
  rw [List.rdropWhile_eq_self_iff]
  intro hl
  rw [List.getLast_append_of_ne_nil hl hne, h.isBlank _ (List.getLast_mem hne)]
  exact Bool.false_ne_true

theorem trimBlanks_blank_cons {op : List Char} (h : PlainText op) : trimBlanks (' ' :: op) = op := by
  cases op with
  | nil => rfl
  | cons c cs =>
    have hdrop : (' ' :: c :: cs).dropWhile isBlank = c :: cs :=
      dropWhile_eq_self_of_head (h.isBlank c List.mem_cons_self) cs
    rw [trimBlanks_eq_rdropWhile, hdrop]
    exact h.rdropWhile_append_eq_self (List.cons_ne_nil c cs) []

/-! ### Commas -/

/-- A piece without comma goes in front of the first piece of the rest. -/
theorem splitCommas_append {p : List Char} (h : ',' ∉ p) {cs q : List Char} {qs : List (List Char)}
    (hcs : splitCommas cs = q :: qs) : splitCommas (p ++ cs) = (p ++ q) :: qs := by
  induction p with
  | nil => exact hcs
  | cons c p ih =>
    have hc : c ≠ ',' := fun heq => h (heq ▸ List.mem_cons_self)
    rw [List.cons_append, splitCommas, if_neg hc, ih (List.not_mem_of_not_mem_cons h)]
    rfl

theorem splitCommas_piece {p : List Char} (h : ',' ∉ p) : splitCommas p = [p] := by
  simpa using splitCommas_append h (cs := []) rfl

theorem splitCommas_comma {p : List Char} (h : ',' ∉ p) (cs : List Char) :
    splitCommas (p ++ ',' :: cs) = p :: splitCommas cs := by
  simpa using splitCommas_append h (cs := ',' :: cs) (q := []) rfl

/-! ### A line taken apart -/

/-- What a line with the given name and operands assembles to. -/
def assembleNamed (name : List Char) (ops : List (List Char)) : Assembled :=
  if name = ['I', 'N', 'I', 'T'] then asmInit ops
  else if name = ['S', 'E', 'T', 'F'] then asmFreq .setf ops
  else if name = ['R', 'E', 'A', 'D'] then asmAddr .read ops
  else if name = ['R', 'E', 'A', 'D', 'C'] then asmAddr .readc ops
  else if name = ['E', 'N', 'C'] then asmFreq .enc ops
  else .error .unknownMnemonic

/-- The code of a line: without its comment and the blanks around it. -/
def codeOf (line : List Char) : List Char := trimBlanks (line.takeWhile (· != ';'))

/-- The operand texts of a line's code. -/
def operandsOf (code : List Char) : List (List Char) :=
  (splitCommas (code.dropWhile fun c => !isBlank c)).map trimBlanks

theorem assembleLine_eq (line : List Char) :
    assembleLine line = if codeOf line = [] then .blank
      else assembleNamed ((codeOf line).takeWhile fun c => !isBlank c) (operandsOf (codeOf line)) := rfl

/-- The text that follows the name on a line, without comment and the blanks at its end. -/
def operandText (rest : List Char) : List Char :=
  (' ' :: rest.takeWhile (· != ';')).rdropWhile isBlank

/-- What follows the name is nothing, or begins with the blank after it. -/
theorem operandText_cases (rest : List Char) :
    operandText rest = [] ∨ ∃ cs, operandText rest = ' ' :: cs := by
  obtain ⟨dropped, h⟩ := List.rdropWhile_prefix isBlank (' ' :: rest.takeWhile (· != ';'))
  rw [← operandText] at h
  cases htext : operandText rest with
  | nil => exact .inl rfl
  | cons c cs =>
    rw [htext] at h
    obtain ⟨rfl, -⟩ := List.cons.inj h
    exact .inr ⟨cs, rfl⟩

section

variable {name : List Char} (hname : PlainText name) (hne : name ≠ [])

include hname hne

theorem codeOf_name (rest : List Char) : codeOf (name ++ ' ' :: rest) = name ++ operandText rest := by
  have htake : (name ++ ' ' :: rest).takeWhile (· != ';') = name ++ ' ' :: rest.takeWhile (· != ';') := by
    rw [List.takeWhile_append_of_pos fun c hc => by
      simpa using fun heq : c = ';' => hname.ne_semicolon (heq ▸ hc)]
    rfl
  have hdrop : ∀ cs, (name ++ cs).dropWhile isBlank = name ++ cs := by
    intro cs
    obtain ⟨c, name, rfl⟩ := List.exists_cons_of_ne_nil hne
    exact dropWhile_eq_self_of_head (hname.isBlank c List.mem_cons_self) _
  rw [codeOf, htake, trimBlanks_eq_rdropWhile, hdrop,
    rdropWhile_append (by simpa using hname.rdropWhile_append_eq_self hne []), operandText]

/-- A line that begins with a name is decided by the name and the operands that follow it. -/
theorem assembleLine_name (rest : List Char) :
    assembleLine (name ++ ' ' :: rest)
      = assembleNamed name ((splitCommas (operandText rest)).map trimBlanks) := by
  have hblank : ∀ c ∈ name, (!isBlank c) = true := fun c hc => by simp [hname.isBlank c hc]
  have hcode := codeOf_name hname hne rest
  have htake : (codeOf (name ++ ' ' :: rest)).takeWhile (fun c => !isBlank c) = name := by
    rw [hcode, List.takeWhile_append_of_pos hblank]
    obtain h | ⟨cs, h⟩ := operandText_cases rest <;> simp [h, isBlank]
  have hdrop : (codeOf (name ++ ' ' :: rest)).dropWhile (fun c => !isBlank c) = operandText rest := by
    rw [hcode, List.dropWhile_append_of_pos hblank]
    obtain h | ⟨cs, h⟩ := operandText_cases rest <;> simp [h, isBlank]
  rw [assembleLine_eq, if_neg (by simp [hcode, hne]), htake, operandsOf, hdrop]

end

/-- The operands of a line, with or without a comment. -/
theorem operandText_append_comment {pre op : List Char} (hpre : ';' ∉ pre) (hop : PlainText op)
    (hne : op ≠ []) (com : Option (List Char)) :
    operandText (pre ++ op ++ commentText com) = ' ' :: (pre ++ op) := by
  have hcode : ∀ c ∈ pre ++ op, (c != ';') = true := by
    intro c hc
    rw [bne_iff_ne]
    rintro rfl
    exact (List.mem_append.mp hc).elim hpre hop.ne_semicolon
  have hcomment : ((commentText com).takeWhile (· != ';')).rdropWhile isBlank = [] := by
    cases com <;> rfl
  have hlast := hop.rdropWhile_append_eq_self hne (' ' :: pre)
  rw [operandText, List.takeWhile_append_of_pos hcode, ← List.cons_append, ← List.cons_append,
    rdropWhile_append hlast, hcomment, List.append_nil]

/-- A line with one operand. -/
theorem assembleLine_operand {name op : List Char} (hname : PlainText name) (hnamed : name ≠ [])
    (hop : PlainText op) (hne : op ≠ []) (com : Option (List Char)) :
    assembleLine (name ++ ' ' :: (op ++ commentText com)) = assembleNamed name [op] := by
  have htext := operandText_append_comment (pre := []) List.not_mem_nil hop hne com
  have hcomma : ',' ∉ ' ' :: op := by simpa using hop.ne_comma
  rw [List.nil_append] at htext
  rw [assembleLine_name hname hnamed, htext, splitCommas_piece hcomma, List.map_singleton,
    trimBlanks_blank_cons hop]

/-- A line with three operands. -/
theorem assembleLine_operands {name c e d : List Char} (hname : PlainText name) (hnamed : name ≠ [])
    (hc : PlainText c) (he : PlainText e) (hd : PlainText d) (hne : d ≠ [])
    (com : Option (List Char)) :
    assembleLine (name ++ ' ' :: (c ++ [',', ' '] ++ e ++ [',', ' '] ++ d ++ commentText com))
      = assembleNamed name [c, e, d] := by
  have hpre : ';' ∉ c ++ [',', ' '] ++ e ++ [',', ' '] := by
    simp [hc.ne_semicolon, he.ne_semicolon]
  have hcomma : ∀ {op : List Char}, PlainText op → ',' ∉ ' ' :: op := fun hop => by
    simpa using hop.ne_comma
  have hsplit : ' ' :: (c ++ [',', ' '] ++ e ++ [',', ' '] ++ d)
      = (' ' :: c) ++ ',' :: ((' ' :: e) ++ ',' :: (' ' :: d)) := by simp
  rw [assembleLine_name hname hnamed, operandText_append_comment hpre hd hne, hsplit,
    splitCommas_comma (hcomma hc), splitCommas_comma (hcomma he), splitCommas_piece (hcomma hd)]
  simp [trimBlanks_blank_cons, hc, he, hd]

/-! ### The operands by mnemonic -/

theorem asmFreq_eq_specFreq (mk : Int → Instr) (op : List Char) :
    asmFreq mk [op] = specFreq mk (readInt op) := by
  cases h : readInt op with
  | none => simp [asmFreq, specFreq, h]
  | some f => simp [asmFreq, specFreq, h, freqInRange_iff]

theorem asmAddr_eq_specAddr (mk : RegAddr → Instr) (op : List Char) :
    asmAddr mk [op] = specAddr mk (readNat op) := by
  cases h : readNat op <;> simp [asmAddr, specAddr, h]

theorem asmInit_eq_specInit (c e d : List Char) :
    asmInit [c, e, d] = specInit (readNat c) (readNat e) (readNat d) := by
  cases hc : readNat c <;> cases he : readNat e <;> cases hd : readNat d <;>
    simp [asmInit, specInit, hc, he, hd]

/-! ### What a line is accepted as -/

theorem asmFreq_accepts {mk : Int → Instr} {ops : List (List Char)} {i : Instr}
    (h : asmFreq mk ops = .instr i) : ∃ f, freqInRange f = true ∧ i = mk f := by
  unfold asmFreq at h
  split at h
  next op =>
    split at h
    next f _ =>
      split at h
      next hf => exact ⟨f, hf, (Assembled.instr.inj h).symm⟩
      next => exact absurd h (by simp)
    next => exact absurd h (by simp)
  next => exact absurd h (by simp)

theorem asmAddr_accepts {mk : RegAddr → Instr} {ops : List (List Char)} {i : Instr}
    (h : asmAddr mk ops = .instr i) : ∃ a, i = mk a := by
  unfold asmAddr at h
  split at h
  next op =>
    split at h
    next n _ =>
      split at h
      next => exact ⟨_, (Assembled.instr.inj h).symm⟩
      next => exact absurd h (by simp)
    next => exact absurd h (by simp)
  next => exact absurd h (by simp)

theorem asmInit_accepts {ops : List (List Char)} {i : Instr} (h : asmInit ops = .instr i) :
    ∃ c e d, i = .init c e d := by
  unfold asmInit at h
  split at h
  next =>
    split at h
    next =>
      split at h
      next => exact ⟨_, _, _, (Assembled.instr.inj h).symm⟩
      next => exact absurd h (by simp)
    next => exact absurd h (by simp)
  next => exact absurd h (by simp)

/-- Whatever the name, what is accepted is a command whose operands fit their fields. -/
theorem assembleNamed_accepts {name : List Char} {ops : List (List Char)} {i : Instr}
    (h : assembleNamed name ops = .instr i) :
    i.wellFormed true = true ∧ (encode i).isCommand = true := by
  unfold assembleNamed at h
  split at h
  next =>
    obtain ⟨c, e, d, rfl⟩ := asmInit_accepts h
    exact ⟨rfl, rfl⟩
  split at h
  next =>
    obtain ⟨f, hf, rfl⟩ := asmFreq_accepts h
    exact ⟨hf, rfl⟩
  split at h
  next =>
    obtain ⟨a, rfl⟩ := asmAddr_accepts h
    exact ⟨rfl, rfl⟩
  split at h
  next =>
    obtain ⟨a, rfl⟩ := asmAddr_accepts h
    exact ⟨rfl, rfl⟩
  split at h
  next =>
    obtain ⟨f, hf, rfl⟩ := asmFreq_accepts h
    exact ⟨hf, rfl⟩
  next => exact absurd h (by simp)

theorem assembleLine_accepts {line : List Char} {i : Instr} (h : assembleLine line = .instr i) :
    i.wellFormed true = true ∧ (encode i).isCommand = true := by
  rw [assembleLine_eq] at h
  split at h
  next => exact absurd h (by simp)
  next => exact assembleNamed_accepts h

theorem assembleRequest_of_instr {line : List Char} {i : Instr} (h : assembleLine line = .instr i) :
    assembleRequest line = some (encode i) := by
  rw [assembleRequest, h]

/-! ### Numbers as they are written -/

theorem readDigits_append (base : Nat) {digit : Char → Option Nat} (n : Nat) (cs ds : List Char) :
    readDigits base digit n (cs ++ ds)
      = (readDigits base digit n cs).bind fun m => readDigits base digit m ds := by
  induction cs generalizing n with
  | nil => rfl
  | cons c cs ih =>
    rw [List.cons_append, readDigits, readDigits]
    cases digit c with
    | none => rfl
    | some d => exact ih _

section

variable {base : Nat} (hbase : 1 < base)

include hbase

/-- Digits are written from the remainder by the base backwards. -/
theorem toDigits_induction {P : Nat → Prop} (hlast : ∀ n < base, P n)
    (hmore : ∀ n, base ≤ n → P (n / base) → P n) (n : Nat) : P n := by
  induction n using Nat.strongRecOn with
  | ind n ih =>
    by_cases hn : n < base
    · exact hlast n hn
    · exact hmore n (by omega) (ih _ (Nat.div_lt_self (by omega) hbase))

theorem exists_digit_of_mem_toDigits {c : Char} (n : Nat) (hc : c ∈ Nat.toDigits base n) :
    ∃ d < base, c = Nat.digitChar d := by
  induction n using toDigits_induction hbase with
  | hlast n hn =>
    rw [Nat.toDigits_of_lt_base hn, List.mem_singleton] at hc
    exact ⟨n, hn, hc⟩
  | hmore n hn ih =>
    rw [Nat.toDigits_of_base_le hbase hn, List.mem_append, List.mem_singleton] at hc
    exact hc.elim ih fun h => ⟨n % base, Nat.mod_lt _ (by omega), h⟩

/-- Reading the digits of a number gives the number back. -/
theorem readDigits_toDigits {digit : Char → Option Nat}
    (hdigit : ∀ d < base, digit (Nat.digitChar d) = some d) (n : Nat) :
    readDigits base digit 0 (Nat.toDigits base n) = some n := by
  induction n using toDigits_induction hbase with
  | hlast n hn => simp [Nat.toDigits_of_lt_base hn, readDigits, hdigit n hn]
  | hmore n hn ih =>
    have hmod : n % base < base := Nat.mod_lt _ (by omega)
    rw [Nat.toDigits_of_base_le hbase hn, readDigits_append base, ih]
    simp [readDigits, hdigit _ hmod, Nat.div_add_mod']

end

theorem decimalDigit_digitChar : ∀ d < 10, decimalDigit (Nat.digitChar d) = some d := by decide

theorem hexDigit_digitChar : ∀ d < 16, hexDigit (Nat.digitChar d) = some d := by decide

/-- No digit is a character that ends an operand, a sign, or the mark of a hexadecimal number. -/
theorem digitChar_ne : ∀ d < 16, Nat.digitChar d ∉ [' ', '\t', ',', ';', '-', 'x'] := by decide

theorem not_mem_toDigits {base : Nat} (hbase : 1 < base) (hle : base ≤ 16) {c : Char}
    (hc : c ∈ [' ', '\t', ',', ';', '-', 'x']) (n : Nat) : c ∉ Nat.toDigits base n := by
  intro hmem
  obtain ⟨d, hd, rfl⟩ := exists_digit_of_mem_toDigits hbase n hmem
  exact digitChar_ne d (by omega) hc

/-- A text without the mark of a hexadecimal number is read in decimal. -/
theorem readNat_of_decimal {cs : List Char} (hne : cs ≠ []) (hx : 'x' ∉ cs) :
    readNat cs = readDigits 10 decimalDigit 0 cs := by
  unfold readNat
  split
  next => exact absurd rfl hne
  next => exact absurd (by simp) hx
  next => rfl

theorem readNat_numText (hex : Bool) (n : Nat) : readNat (numText hex n) = some n := by
  cases hex with
  | false =>
    have hx := not_mem_toDigits (base := 10) (c := 'x') (by decide) (by decide) (by decide) n
    have htext : readNat (numText false n) = readDigits 10 decimalDigit 0 (Nat.toDigits 10 n) :=
      readNat_of_decimal Nat.toDigits_ne_nil hx
    rw [htext, readDigits_toDigits (by decide) decimalDigit_digitChar]
  | true =>
    have htext : readNat (numText true n) = readDigits 16 hexDigit 0 (Nat.toDigits 16 n) :=
      if_neg Nat.toDigits_ne_nil
    rw [htext, readDigits_toDigits (by decide) hexDigit_digitChar]

/-- The characters that no written number has. -/
theorem not_mem_numText {c : Char} (hc : c ∈ [' ', '\t', ',', ';', '-']) (hex : Bool) (n : Nat) :
    c ∉ numText hex n := by
  have hdigits := fun base hbase hle =>
    not_mem_toDigits (base := base) (c := c) hbase hle (List.mem_append_left ['x'] hc) n
  have hmark : ∀ d ∈ ['0', 'x'], d ∉ [' ', '\t', ',', ';', '-'] := by simp
  cases hex with
  | false => exact hdigits 10 (by decide) (by decide)
  | true =>
    simp only [numText, if_true, List.mem_cons, not_or]
    exact ⟨fun h => hmark '0' (by simp) (h ▸ hc), fun h => hmark 'x' (by simp) (h ▸ hc),
      hdigits 16 (by decide) (by decide)⟩

theorem numText_ne_nil (hex : Bool) (n : Nat) : numText hex n ≠ [] := by
  cases hex with
  | false => exact Nat.toDigits_ne_nil
  | true => exact List.cons_ne_nil _ _

theorem plainText_numText (hex : Bool) (n : Nat) : PlainText (numText hex n) := by
  refine fun c hc => ⟨?_, ?_, ?_, ?_⟩ <;> rintro rfl <;>
    exact not_mem_numText (by decide) hex n hc

theorem readInt_of_no_sign {cs : List Char} (h : '-' ∉ cs) :
    readInt cs = (readNat cs).map fun n : Nat => (n : Int) := by
  unfold readInt
  split
  next => exact absurd List.mem_cons_self h
  next => cases readNat cs <;> rfl

theorem readInt_minus (cs : List Char) :
    readInt ('-' :: cs) = (readNat cs).map fun n : Nat => -(n : Int) := by
  rw [readInt]
  cases readNat cs <;> rfl

theorem readInt_freqText (hex : Bool) (f : Int) : readInt (freqText hex f) = some f := by
  unfold freqText
  split
  next hneg =>
    rw [readInt_minus, readNat_numText, Option.map_some]
    congr 1
    omega
  next hpos =>
    rw [readInt_of_no_sign (not_mem_numText (by decide) hex _), readNat_numText, Option.map_some]
    congr 1
    omega

theorem freqText_ne_nil (hex : Bool) (f : Int) : freqText hex f ≠ [] := by
  unfold freqText
  split
  next => exact List.cons_ne_nil _ _
  next => exact numText_ne_nil hex _

theorem plainText_freqText (hex : Bool) (f : Int) : PlainText (freqText hex f) := by
  unfold freqText
  split
  next =>
    intro c hc
    obtain rfl | hc := List.mem_cons.mp hc
    · decide
    · exact plainText_numText hex _ c hc
  next => exact plainText_numText hex _

/-! ### The obligations -/

/-- Settles O57: a line is its name and its operands, whatever the comment; the name decides what is made
of them, and each operand is made the number it reads as. -/
theorem operandTextsDecideTheAssembledLine : Obligations.OperandTextsDecideTheAssembledLine := by
  refine ⟨fun c e d com hc he hd hne => ?_, fun op com hop hne => ?_,
    fun name rest hname hne hinit hsetf hread hreadc henc => ?_⟩
  · exact (assembleLine_operands (name := ['I', 'N', 'I', 'T']) (by simp [PlainText]) (by simp)
      hc he hd hne com).trans (asmInit_eq_specInit c e d)
  · have hline := fun name (hname : PlainText name) hnamed =>
      assembleLine_operand hname hnamed hop hne com
    exact ⟨
      (hline ['S', 'E', 'T', 'F'] (by simp [PlainText]) (by simp)).trans (asmFreq_eq_specFreq _ op),
      (hline ['E', 'N', 'C'] (by simp [PlainText]) (by simp)).trans (asmFreq_eq_specFreq _ op),
      (hline ['R', 'E', 'A', 'D'] (by simp [PlainText]) (by simp)).trans (asmAddr_eq_specAddr _ op),
      (hline ['R', 'E', 'A', 'D', 'C'] (by simp [PlainText]) (by simp)).trans
        (asmAddr_eq_specAddr _ op)⟩
  · rw [assembleLine_name hname hne, assembleNamed]
    simp [hinit, hsetf, hread, hreadc, henc]

/-- Settles O56: what a line is accepted as fits its fields; and a written number is a plain text that reads
as that number, so the line is decided by it. -/
theorem assembledLinesAreLegalCommands : Obligations.AssembledLinesAreLegalCommands := by
  obtain ⟨hinit, hoperand, -⟩ := operandTextsDecideTheAssembledLine
  refine ⟨fun line i h => ?_, fun hc he hd c e d com => ?_, fun hex f com => ?_, fun hex a com => ?_⟩
  · obtain ⟨hwf, hcommand⟩ := assembleLine_accepts h
    exact ⟨hwf, hcommand, decodeOfEncodeIsTheInstruction true i hwf, assembleRequest_of_instr h⟩
  · have hline := hinit _ _ _ com (plainText_numText hc c) (plainText_numText he e)
      (plainText_numText hd d) (numText_ne_nil hd d)
    rw [readNat_numText, readNat_numText, readNat_numText] at hline
    exact hline
  · obtain ⟨hsetf, henc, -⟩ := hoperand _ com (plainText_freqText hex f) (freqText_ne_nil hex f)
    rw [readInt_freqText] at hsetf henc
    exact ⟨hsetf, henc⟩
  · obtain ⟨-, -, hread, hreadc⟩ := hoperand _ com (plainText_numText hex a) (numText_ne_nil hex a)
    rw [readNat_numText] at hread hreadc
    exact ⟨hread, hreadc⟩

end Sys2Proof.Machine
end
